-- ==== Sys2Proof/Word.lean ====
section
/-! DEFINITION. The word types: every host register, header and Xing field is 32 bits (R8, R10), a buffer
byte is 8 bits (R60). -/

namespace Sys2Proof

/-- A host register, a frame header, a Xing field or a command word: 32 bits (R8). -/
abbrev Word := BitVec 32

/-- One byte of the input buffer (R60). -/
abbrev Byte := BitVec 8

end Sys2Proof
end

