-- ==== Sys2Proof/Config.lean ====
section
/-! DEFINITION. What is fixed for one instance of the MFD (the parameters of R7), and the free values: what
the spec leaves open and no proof can see. The default values of the parameters stand in Machine/Tables.lean. -/

namespace Sys2Proof

/-- `BITRATE_KBPS` (R144): one column of 14 entries (bitrate index 1 first) for each version class and layer,
in kbit/s. -/
structure BitrateTable where
  v1l1 : List Nat
  v1l2 : List Nat
  v1l3 : List Nat
  v2l1 : List Nat
  v2l2 : List Nat
  v2l3 : List Nat
  deriving DecidableEq, Repr

/-- `SRATE_HZ` (R145): one row of 3 entries (sampling index 0 first) for each version, in Hz. -/
structure SrateTable where
  mpeg1 : List Nat
  mpeg2 : List Nat
  mpeg25 : List Nat
  deriving DecidableEq, Repr

/-- `L2_MODE_OK` (R143): two columns of 16 entries (bitrate index 0 first), one for the non-mono modes and one
for mono. -/
structure L2ModeTable where
  nonMono : List Bool
  mono : List Bool
  deriving DecidableEq, Repr

/-- The implementation parameters of R7. "A model takes each as an argument." -/
structure Params where
  /-- `P_CONFIRM`: how many consecutive headers a confirmation requires. -/
  pConfirm : Nat
  /-- `P_SYNC_BITS`: 11 or 12. -/
  pSyncBits : Nat
  /-- `ADDR_W`: the width of a buffer byte offset. -/
  addrW : Nat
  /-- `BUF_CAP`: the capacity of the input buffer in bytes. -/
  bufCap : Nat
  bitrateKbps : BitrateTable
  srateHz : SrateTable
  l2ModeOk : L2ModeTable
  deriving DecidableEq, Repr

/-- FREE VALUE (R291, I6): the byte the buffer holds at an offset that the host has not written since power-on.
Nothing is known of it. Log entry 5. -/
opaque Config.powerOnByte : Nat → Byte

/-- FREE VALUE (R124, I5): the word a host read of a result register returns while BUSY = 1; the argument
numbers the draws. Nothing is known of it. Log entry 8. -/
opaque Config.busyRead : Nat → Word

end Sys2Proof
end

