-- ==== Sys2Proof/Machine/HostMove.lean ====
section
/-! DEFINITION. The outside of the MFD: the 26 host registers and their offsets (R20), the steps of the host
(R14, R67) and the turns of which the total order of R74 is made. -/

namespace Sys2Proof.Machine

/-- The host registers of R20. -/
inductive Reg where
  | cmd | status | ctrl | arg0 | arg1 | bufLen
  | hdrRaw | hdrInfo | bitrate | srate | spf | frameSize | sideInfo | dataOffset
  | compat | confRes | syncOffset | syncRejects | probeSize
  | xingInfo | xingTagOff | xingMask | xingFrames | xingBytes | xingTocOff | xingQuality
  deriving DecidableEq, Repr

/-- The byte offset of a register in the register space (the table of R20). -/
def Reg.offset : Reg → Nat
  | .cmd => 0x00
  | .status => 0x04
  | .ctrl => 0x08
  | .arg0 => 0x0C
  | .arg1 => 0x10
  | .bufLen => 0x14
  | .hdrRaw => 0x18
  | .hdrInfo => 0x1C
  | .bitrate => 0x20
  | .srate => 0x24
  | .spf => 0x28
  | .frameSize => 0x2C
  | .sideInfo => 0x30
  | .dataOffset => 0x34
  | .compat => 0x38
  | .confRes => 0x3C
  | .syncOffset => 0x40
  | .syncRejects => 0x44
  | .probeSize => 0x48
  | .xingInfo => 0x4C
  | .xingTagOff => 0x50
  | .xingMask => 0x54
  | .xingFrames => 0x58
  | .xingBytes => 0x5C
  | .xingTocOff => 0x60
  | .xingQuality => 0x64

/-- All 26 registers, in the order of R20. -/
def Reg.all : List Reg :=
  [.cmd, .status, .ctrl, .arg0, .arg1, .bufLen, .hdrRaw, .hdrInfo, .bitrate, .srate, .spf, .frameSize, .sideInfo]
    ++ [.dataOffset, .compat, .confRes, .syncOffset, .syncRejects, .probeSize, .xingInfo, .xingTagOff, .xingMask]
    ++ [.xingFrames, .xingBytes, .xingTocOff, .xingQuality]

/-- The register at an offset, or none at an unmapped offset (R47). -/
def Reg.ofOffset (offset : Nat) : Option Reg :=
  Reg.all.find? fun r => r.offset == offset

/-- The result registers (groups H, C, F, S, P and X of R53): the ones whose value is unspecified while a
command runs (R124). -/
def Reg.isResult : Reg → Bool
  | .cmd | .status | .ctrl | .arg0 | .arg1 | .bufLen => false
  | .hdrRaw | .hdrInfo | .bitrate | .srate | .spf | .frameSize | .sideInfo | .dataOffset => true
  | .compat | .confRes | .syncOffset | .syncRejects | .probeSize => true
  | .xingInfo | .xingTagOff | .xingMask | .xingFrames | .xingBytes | .xingTocOff | .xingQuality => true

/-- The size of the register window in bytes (R61). -/
def registerWindow : Nat := 256

/-- One step of the host (R14). A register access carries its width in bits, so that the accesses R67 rules out
can be written down and refused. DESIGN CHOICE (log entry 15): a buffer write is one byte, since the spec gives its
step no width; a `BUF` line is as many steps as it has bytes. -/
inductive HostStep where
  | read (offset width : Nat)
  | write (offset width : Nat) (value : Word)
  | bufWrite (offset : Nat) (value : Byte)
  deriving DecidableEq, Repr

/-- One turn of the total order of R74: a step of the host, the engine's turn to take its step (R122), or a
reset (R290). -/
inductive Turn where
  | host (h : HostStep)
  | engine
  | reset
  deriving DecidableEq, Repr

end Sys2Proof.Machine
end

