-- ==== Sys2Proof/Syntax.lean ====
section
/-! DEFINITION. The commands of the MFD: one constructor for each row of spec/opcode_table.json (R101). A
command has no operand in its word; operands are in ARG0, ARG1 and BUF_LEN at issue (R100). -/

namespace Sys2Proof

inductive Instr where
  /-- NOP, OP 0x0 (R125) -/
  | nop
  /-- DECODE, OP 0x1 (R160) -/
  | decode
  /-- DECODE_MEM, OP 0x2 (R161) -/
  | decodeMem
  /-- COMPARE, OP 0x3 (R162) -/
  | compare
  /-- CONFIRM, OP 0x4 (R210) -/
  | confirm
  /-- SYNC, OP 0x5 (R211) -/
  | sync
  /-- PROBE, OP 0x6 (R212) -/
  | probe
  /-- XING, OP 0x7 (R230) -/
  | xing
  /-- SET_FC, OP 0x8 (R240) -/
  | setFc
  /-- SET_BC, OP 0x9 (R241) -/
  | setBc
  deriving DecidableEq, Repr

end Sys2Proof
end

