-- ==== Sys2Proof/WellFormed.lean ====
section
/-! DEFINITION. What a well-formed command, command word and host step are. -/

namespace Sys2Proof

/-- A command has no operand field (R100), so every command is well formed. -/
def Instr.wellFormed : Instr → Bool
  | .nop | .decode | .decodeMem | .compare | .confirm => true
  | .sync | .probe | .xing | .setFc | .setBc => true

/-- Bits 31:4 of a command word must be 0 (R100, R102). -/
def reservedBitsZero (w : Word) : Bool := w.extractLsb 31 4 == 0

/-- OP is one of 0x0 .. 0x9 (R101, R102). -/
def opcodeAssigned (w : Word) : Bool := w.extractLsb 3 0 ≤ 9#4

/-- A legal command word: both checks of R102 pass. -/
def legalCommandWord (w : Word) : Bool := reservedBitsZero w && opcodeAssigned w

/-- A register access has the form R67 asks for: 32 bits wide, at a multiple of 4. -/
def wordAccess (offset width : Nat) : Bool := width == 32 && offset % 4 == 0

open Machine in
/-- A host step inside the interface: an aligned word access inside the window (R61, R67), or a buffer write
inside the buffer (R60). -/
def Machine.HostStep.wellFormed (p : Params) : HostStep → Bool
  | .read offset width => wordAccess offset width && decide (offset < registerWindow)
  | .write offset width _ => wordAccess offset width && decide (offset < registerWindow)
  | .bufWrite offset _ => decide (offset < p.bufCap)

end Sys2Proof
end

