-- ==== Sys2Proof/Decode.lean ====
section
/-! DEFINITION. Decoding a command word and, after it, encoding a command: both from the opcode map of R101. -/

namespace Sys2Proof

/-- Why a word is no command (R102). -/
inductive DecodeError where
  /-- a bit of 31:4 is set -/
  | reservedBits
  /-- OP is one of 0xA .. 0xF -/
  | illegalOpcode
  deriving DecidableEq, Repr

/-- One row of the opcode map: the word is this command iff it equals `pattern` on the bits of `mask`. -/
structure OpcodeRow where
  mask : Word
  pattern : Word
  command : Instr
  deriving DecidableEq, Repr

/-- The opcode map of R101 (match and mask as spec/opcode_table.json gives them). -/
def opcodeTable : List OpcodeRow :=
  [ ⟨0xFFFFFFFF, 0x00000000, .nop⟩,
    ⟨0xFFFFFFFF, 0x00000001, .decode⟩,
    ⟨0xFFFFFFFF, 0x00000002, .decodeMem⟩,
    ⟨0xFFFFFFFF, 0x00000003, .compare⟩,
    ⟨0xFFFFFFFF, 0x00000004, .confirm⟩,
    ⟨0xFFFFFFFF, 0x00000005, .sync⟩,
    ⟨0xFFFFFFFF, 0x00000006, .probe⟩,
    ⟨0xFFFFFFFF, 0x00000007, .xing⟩,
    ⟨0xFFFFFFFF, 0x00000008, .setFc⟩,
    ⟨0xFFFFFFFF, 0x00000009, .setBc⟩ ]

/-- Whether a word is the command of a row. -/
def OpcodeRow.matchesWord (r : OpcodeRow) (w : Word) : Bool := w &&& r.mask == r.pattern

/-- Decode a command word (R101: "match the word exactly against the ten legal words; every other word is
illegal"). -/
def decodeWord (w : Word) : Except DecodeError Instr :=
  match opcodeTable.find? (fun r => r.matchesWord w) with
  | some r => .ok r.command
  | none => if reservedBitsZero w then .error .illegalOpcode else .error .reservedBits

/-- The word of a command (R101). -/
def encode : Instr → Word
  | .nop => 0x00000000
  | .decode => 0x00000001
  | .decodeMem => 0x00000002
  | .compare => 0x00000003
  | .confirm => 0x00000004
  | .sync => 0x00000005
  | .probe => 0x00000006
  | .xing => 0x00000007
  | .setFc => 0x00000008
  | .setBc => 0x00000009

/-- The command word whose bits are `w`, of which the first `nbits` count: the bits above are 0. A command is
one 32-bit word and no byte order applies to it (R66, R103). -/
def tableWord (nbits w : Nat) : Word := BitVec.ofNat 32 (w % 2 ^ nbits)

/-- The command this decoder reads from a row of the opcode table whose bits are `w`. A value with a bit above
31 is no command word. -/
def decodeTableWord (nbits w : Nat) : Option Instr :=
  if w % 2 ^ nbits < 2 ^ 32 then
    match decodeWord (tableWord nbits w) with
    | .ok i => some i
    | .error _ => none
  else none

end Sys2Proof
end

