-- ==== Sys2Proof/Machine/Tables.lean ====
section
/-! DEFINITION. The default parameters of R7 with the default tables of R143 to R145 (which the spec supplies
from general knowledge, D34), and what values the parameters may take. -/

namespace Sys2Proof.Machine

/-- The default `BITRATE_KBPS` (R144), in kbit/s, bitrate indices 1 to 14. -/
def bitrateKbpsDefault : BitrateTable where
  v1l1 := [32, 64, 96, 128, 160, 192, 224, 256, 288, 320, 352, 384, 416, 448]
  v1l2 := [32, 48, 56, 64, 80, 96, 112, 128, 160, 192, 224, 256, 320, 384]
  v1l3 := [32, 40, 48, 56, 64, 80, 96, 112, 128, 160, 192, 224, 256, 320]
  v2l1 := [32, 48, 56, 64, 80, 96, 112, 128, 144, 160, 176, 192, 224, 256]
  v2l2 := [8, 16, 24, 32, 40, 48, 56, 64, 80, 96, 112, 128, 144, 160]
  v2l3 := [8, 16, 24, 32, 40, 48, 56, 64, 80, 96, 112, 128, 144, 160]

/-- The default `SRATE_HZ` (R145), in Hz, sampling indices 0 to 2. -/
def srateHzDefault : SrateTable where
  mpeg1 := [44100, 48000, 32000]
  mpeg2 := [22050, 24000, 16000]
  mpeg25 := [11025, 12000, 8000]

/-- The default `L2_MODE_OK` (R143), bitrate indices 0 to 15. -/
def l2ModeOkDefault : L2ModeTable where
  nonMono := [true, false, false, false, true, false, true, true, true, true, true, true, true, true, true, false]
  mono := [true, true, true, true, true, true, true, true, true, true, true, false, false, false, false, false]

/-- The default column of R7: "the value this spec's hardware takes". -/
def paramsDefault : Params where
  pConfirm := 3
  pSyncBits := 11
  addrW := 32
  bufCap := 2 ^ 32 - 1
  bitrateKbps := bitrateKbpsDefault
  srateHz := srateHzDefault
  l2ModeOk := l2ModeOkDefault

/-- A bitrate column of R144's shape: 14 entries, small enough that neither the bitrate nor any frame size
computed from it passes 32 bits (R10; log entry 6). -/
def bitrateColumnOk (c : List Nat) : Bool := c.length == 14 && c.all fun kbps => decide (kbps ≤ 29826)

/-- A sampling-rate row of R145's shape: 3 entries, each positive (it divides in R151) and within 32 bits. -/
def srateRowOk (c : List Nat) : Bool := c.length == 3 && c.all fun hz => decide (0 < hz) && decide (hz < 2 ^ 32)

/-- The legal values of R7, and the tables' shapes (log entry 6). -/
def paramsLegal (p : Params) : Bool :=
  decide (2 ≤ p.pConfirm) && decide (p.pConfirm ≤ 15)
  && (p.pSyncBits == 11 || p.pSyncBits == 12)
  && decide (1 ≤ p.addrW) && decide (p.addrW ≤ 32)
  && decide (p.bufCap ≤ 2 ^ p.addrW - 1)
  && bitrateColumnOk p.bitrateKbps.v1l1 && bitrateColumnOk p.bitrateKbps.v1l2 && bitrateColumnOk p.bitrateKbps.v1l3
  && bitrateColumnOk p.bitrateKbps.v2l1 && bitrateColumnOk p.bitrateKbps.v2l2 && bitrateColumnOk p.bitrateKbps.v2l3
  && srateRowOk p.srateHz.mpeg1 && srateRowOk p.srateHz.mpeg2 && srateRowOk p.srateHz.mpeg25
  && p.l2ModeOk.nonMono.length == 16 && p.l2ModeOk.mono.length == 16

end Sys2Proof.Machine
end

