-- ==== Sys2Proof/Machine/Header.lean ====
section
/-! DEFINITION. The fields of a frame header (R80, R82), its validity (R140 to R143) and stream compatibility
(R84, R157). The names are the spec's. -/

namespace Sys2Proof.Machine

/-- sync(h) = h[31:21] -/
def syncField (h : Word) : BitVec 11 := h.extractLsb 31 21
/-- version(h) = h[20:19]: 0b00 MPEG-2.5, 0b01 reserved, 0b10 MPEG-2, 0b11 MPEG-1 -/
def version (h : Word) : BitVec 2 := h.extractLsb 20 19
/-- layer(h) = h[18:17]: 0b00 reserved, 0b01 Layer 3, 0b10 Layer 2, 0b11 Layer 1 -/
def layer (h : Word) : BitVec 2 := h.extractLsb 18 17
/-- prot(h) = h[16] -/
def prot (h : Word) : Bool := h.getLsbD 16
/-- brIdx(h) = h[15:12] -/
def brIdx (h : Word) : BitVec 4 := h.extractLsb 15 12
/-- srIdx(h) = h[11:10] -/
def srIdx (h : Word) : BitVec 2 := h.extractLsb 11 10
/-- pad(h) = h[9] -/
def pad (h : Word) : Nat := (h.getLsbD 9).toNat
/-- priv(h) = h[8]: carried, never interpreted -/
def priv (h : Word) : Bool := h.getLsbD 8
/-- mode(h) = h[7:6] -/
def mode (h : Word) : BitVec 2 := h.extractLsb 7 6
/-- modeExt(h) = h[5:4]: carried, never validated -/
def modeExt (h : Word) : BitVec 2 := h.extractLsb 5 4
/-- copyright(h) = h[3]: carried -/
def copyright (h : Word) : Bool := h.getLsbD 3
/-- original(h) = h[2]: carried -/
def original (h : Word) : Bool := h.getLsbD 2
/-- emph(h) = h[1:0] -/
def emph (h : Word) : BitVec 2 := h.extractLsb 1 0

/-- layerNum(h) = 4 - layer(h), and 0 for the reserved layer (R82, R28). -/
def layerNum (h : Word) : Nat := if layer h = 0b00#2 then 0 else 4 - (layer h).toNat

/-- vclass(h) = 1 for MPEG-1, else 2 (R82). -/
def vclass (h : Word) : Nat := if version h = 0b11#2 then 1 else 2

/-- isMono(h) = (mode(h) = 0b11) -/
def isMono (h : Word) : Bool := mode h == 0b11#2

/-- isFree(h) = (brIdx(h) = 0) -/
def isFree (h : Word) : Bool := brIdx h == 0#4

/-- crcPresent(h) = (prot(h) = 0) -/
def crcPresent (h : Word) : Bool := !prot h

/-- The sync check (R140). -/
def syncOk (p : Params) (h : Word) : Bool := syncField h == 0x7FF#11 && (p.pSyncBits != 12 || h.getLsbD 20)

/-- The version is not reserved. -/
def verOk (h : Word) : Bool := version h != 0b01#2

/-- The layer is not reserved. -/
def layerOk (h : Word) : Bool := layer h != 0b00#2

/-- The bitrate index is not bad. -/
def brOk (h : Word) : Bool := brIdx h != 0xF#4

/-- The sampling-rate index is not reserved. -/
def srOk (h : Word) : Bool := srIdx h != 0b11#2

/-- The emphasis is not reserved. -/
def emphOk (h : Word) : Bool := emph h != 0b10#2

/-- Whether a header is MPEG-1 Layer 2. -/
def isMpeg1Layer2 (h : Word) : Bool := version h == 0b11#2 && layer h == 0b10#2

/-- The entry `L2_MODE_OK[brIdx][isMono]` (R143). -/
def l2ModeEntry (p : Params) (h : Word) : Bool :=
  (if isMono h then p.l2ModeOk.mono else p.l2ModeOk.nonMono).getD (brIdx h).toNat false

/-- The MPEG-1 Layer 2 mode check (R142). -/
def modeOk (p : Params) (h : Word) : Bool := !isMpeg1Layer2 h || l2ModeEntry p h

/-- The validity invariant (R141). -/
def valid (p : Params) (h : Word) : Bool :=
  syncOk p h && verOk h && layerOk h && brOk h && srOk h && emphOk h && modeOk p h

/-- COMPAT_MASK (R84): version, layer, sampling-rate index, channel mode and emphasis. -/
def compatMask : Word := 0x001E0CC3

/-- compat(a, b) = ((a xor b) and COMPAT_MASK) = 0 (R157). -/
def compat (a b : Word) : Bool := (a ^^^ b) &&& compatMask == 0

/-- The header equal to `h` with another bitrate index (R192). -/
def withBrIdx (h : Word) (i : BitVec 4) : Word := (h &&& 0xFFFF0FFF#32) ||| (i.setWidth 32 <<< 12)

end Sys2Proof.Machine
end

