-- ==== Sys2Proof/Machine/Geometry.lean ====
section
/-! DEFINITION. The derived geometry of a valid header (R144 to R155), on unbounded naturals (R10). -/

namespace Sys2Proof.Machine

/-- The column of `BITRATE_KBPS` for a version class and a layer number (R144). -/
def bitrateColumn (t : BitrateTable) (vclass layerNum : Nat) : List Nat :=
  match vclass, layerNum with
  | 1, 1 => t.v1l1
  | 1, 2 => t.v1l2
  | 1, 3 => t.v1l3
  | 2, 1 => t.v2l1
  | 2, 2 => t.v2l2
  | 2, 3 => t.v2l3
  | _, _ => []

/-- The entry of a column for a bitrate index: index 1 is the first entry; index 0 (free) and index 15 (bad)
have none, and 0 stands for that (it is never used: R147, R141). -/
def kbpsEntry (column : List Nat) : Nat → Nat
  | 0 => 0
  | i + 1 => column.getD i 0

/-- bitrate(h) in bit/s, for a non-free header (R147). -/
def bitrate (p : Params) (h : Word) : Nat :=
  1000 * kbpsEntry (bitrateColumn p.bitrateKbps (vclass h) (layerNum h)) (brIdx h).toNat

/-- The row of `SRATE_HZ` for a version (R145); the reserved version has no row. -/
def srateRow (t : SrateTable) (version : BitVec 2) : List Nat :=
  if version = 0b11#2 then t.mpeg1
  else if version = 0b10#2 then t.mpeg2
  else if version = 0b00#2 then t.mpeg25
  else []

/-- samplingRate(h) in Hz (R148). -/
def samplingRate (p : Params) (h : Word) : Nat := (srateRow p.srateHz (version h)).getD (srIdx h).toNat 0

/-- spf(h), samples per frame (R149). -/
def spf (h : Word) : Nat :=
  match layerNum h with
  | 1 => 384
  | 2 => 1152
  | _ => if version h = 0b11#2 then 1152 else 576

/-- slot(h) in bytes (R150). -/
def slot (h : Word) : Nat := if layerNum h = 1 then 4 else 1

/-- coef(h) = spf(h) / (8 · slot(h)) (R150). -/
def coef (h : Word) : Nat := spf h / (8 * slot h)

/-- frameSize(h) in bytes, for a non-free header (R151). -/
def frameSize (p : Params) (h : Word) : Nat := (coef h * bitrate p h / samplingRate p h + pad h) * slot h

/-- frameDuration(h) in seconds as an exact pair, numerator and denominator (R153, D12). -/
def frameDuration (p : Params) (h : Word) : Nat × Nat := (spf h, samplingRate p h)

/-- sideInfoSize(h) in bytes (R154). -/
def sideInfoSize (h : Word) : Nat :=
  if layerNum h = 3 then
    match vclass h, isMono h with
    | 1, false => 32
    | 1, true => 17
    | _, false => 17
    | _, true => 9
  else 0

/-- The size of a frame header in bytes (R8). -/
def headerSize : Nat := 4

/-- dataOffset(h) = 4 + sideInfoSize(h) (R155); no term for a CRC word (R85). -/
def dataOffset (h : Word) : Nat := headerSize + sideInfoSize h

/-- maxFreeSize(h): the frame size of `h` with bitrate index 14 (R192). -/
def maxFreeSize (p : Params) (h : Word) : Nat := frameSize p (withBrIdx h 14)

/-- probeCond(h, s) (R193). -/
def probeCond (p : Params) (h : Word) (s : Nat) : Bool :=
  s % slot h == 0 && ((s / slot h - pad h) * samplingRate p h) % (spf h / 8) == 0

end Sys2Proof.Machine
end

