-- ==== Sys2Proof/Machine/State.lean ====
section
/-! DEFINITION. The state of the MFD as plain data, the ways a step can stop, and the state after reset. -/

namespace Sys2Proof.Machine

/-- The input buffer (R52, R60): the bytes the host has written since power-on, by offset, offsets strictly
rising. An offset not listed has never been written (log entry 5). -/
abbrev Memory := List Host.Cell

/-- The error codes of R261 that have a name. Codes 11..15 are reserved without one and never written. -/
inductive ErrCode where
  | none
  | invalidHeader
  | syncNotFound
  | freeProbeFailed
  | truncatedMetadata
  | unsupported
  | illegalCommand
  | bufferBounds
  /-- reserved, never written (R262) -/
  | noDeterminableBitrate
  /-- reserved, never written (R262) -/
  | frameIndexOutOfRange
  /-- reserved, never written (R262) -/
  | unsupportedMutation
  deriving DecidableEq, Repr

/-- The stored fields of STATUS (R22). BUSY is not among them: it is 1 exactly while a command is pending, and
`State.pending` says so (log entry 3). -/
structure Status where
  done : Bool
  err : ErrCode
  lastOp : BitVec 4
  deriving DecidableEq, Repr

/-- CTRL (R23): the one stored bit. -/
structure Ctrl where
  ie : Bool
  deriving DecidableEq, Repr

/-- HDR_INFO (R28), field by field. -/
structure HdrInfo where
  valid : Bool
  free : Bool
  syncOk : Bool
  verOk : Bool
  layerOk : Bool
  brOk : Bool
  srOk : Bool
  emphOk : Bool
  modeOk : Bool
  geomDef : Bool
  layerNum : BitVec 2
  mono : Bool
  deriving DecidableEq, Repr

/-- Group H (R27 to R34, R53). -/
structure HdrRegs where
  raw : Word
  info : HdrInfo
  bitrate : Word
  srate : Word
  spf : Word
  frameSize : Word
  sideInfo : Word
  dataOffset : Word
  deriving DecidableEq, Repr

/-- Group C: COMPAT (R35). -/
structure Compat where
  eq : Bool
  aValid : Bool
  bValid : Bool
  deriving DecidableEq, Repr

/-- CONF_RES.REASON (R36). Values 5..15 are never written. -/
inductive Reason where
  | confirmed
  | outOfBuffer
  | invalid
  | incompatible
  | probeFailed
  deriving DecidableEq, Repr

/-- Group F: CONF_RES (R36). -/
structure ConfRes where
  ok : Bool
  nacc : BitVec 4
  reason : Reason
  deriving DecidableEq, Repr

/-- Group S (R37, R38). -/
structure SyncRegs where
  offset : Word
  rejects : Word
  deriving DecidableEq, Repr

/-- XING_INFO (R40). -/
structure XingInfo where
  present : Bool
  isVbr : Bool
  modified : Bool
  deriving DecidableEq, Repr

/-- Group X (R40 to R46, R53). -/
structure XingRegs where
  info : XingInfo
  tagOff : Word
  mask : Word
  frames : Word
  bytes : Word
  tocOff : Word
  quality : Word
  deriving DecidableEq, Repr

/-- The whole state. -/
structure State where
  /-- the parameters of this instance (R7); no step changes them (R291) -/
  params : Params
  /-- STATUS, 0x04 (R22) -/
  status : Status
  /-- CTRL, 0x08 (R23) -/
  ctrl : Ctrl
  /-- ARG0, 0x0C (R24) -/
  arg0 : Word
  /-- ARG1, 0x10 (R25) -/
  arg1 : Word
  /-- BUF_LEN, 0x14 (R26) -/
  bufLen : Word
  /-- HDR_RAW .. DATA_OFFSET, 0x18 .. 0x34 (R27 to R34) -/
  hdr : HdrRegs
  /-- COMPAT, 0x38 (R35) -/
  compat : Compat
  /-- CONF_RES, 0x3C (R36) -/
  confRes : ConfRes
  /-- SYNC_OFFSET and SYNC_REJECTS, 0x40 and 0x44 (R37, R38) -/
  sync : SyncRegs
  /-- PROBE_SIZE, 0x48 (R39) -/
  probeSize : Word
  /-- XING_INFO .. XING_QUALITY, 0x4C .. 0x64 (R40 to R46) -/
  xing : XingRegs
  /-- the issued command word, held from issue to completion (R51); STATUS.BUSY is 1 iff there is one -/
  pending : Option Word
  /-- the input buffer (R52, R60) -/
  buf : Memory
  /-- the model's own: the turns of the total order of R74 that are still to come (log entry 1) -/
  agenda : List Turn
  /-- the model's own: what the host's last register read returned (log entry 7) -/
  readData : Word
  /-- the model's own: how many free values reads have drawn so far (log entry 8) -/
  freeCount : Nat
  deriving DecidableEq, Repr

/-- Why the machine stops with a fault. -/
inductive Fault where
  /-- Raised by a host register access at an offset past the 256-byte window (R61). Safe: the MFD has no such
  register, and the model stops. -/
  | noSuchRegister
  /-- Raised by a host buffer write at an offset past BUF_CAP (R60). Safe: the buffer has no such byte, and the
  model stops. -/
  | noSuchBufferByte
  deriving DecidableEq, Repr

/-- Why a step has no meaning. -/
inductive Refusal where
  /-- An instruction whose meaning is not written: raised by exec alone. Safe. No instruction of this model
  raises it. -/
  | notModelled (mnemonic : String)
  /-- Raised by a host register access that is not an aligned 32-bit word (R67, I9: refuse). Safe: the model
  gives the host no such move. -/
  | notAWordAccess
  /-- Raised by a host buffer write while BUSY = 1 (R73, I4: refuse). Unsafe for a host that breaks this duty:
  a proof about the model holds only for hosts that keep it (I4). -/
  | bufferWriteWhileBusy
  deriving DecidableEq, Repr

/-- STATUS after reset: DONE, ERR and LAST_OP are 0 (R20, R290). -/
def Status.zero : Status := ⟨false, .none, 0⟩

/-- CTRL after reset: IE = 0 (R290). -/
def Ctrl.zero : Ctrl := ⟨false⟩

/-- HDR_INFO after reset: 0 (R290). -/
def HdrInfo.zero : HdrInfo := ⟨false, false, false, false, false, false, false, false, false, false, 0, false⟩

/-- Group H after reset: 0 (R290). -/
def HdrRegs.zero : HdrRegs := ⟨0, .zero, 0, 0, 0, 0, 0, 0⟩

/-- COMPAT after reset: 0 (R290). -/
def Compat.zero : Compat := ⟨false, false, false⟩

/-- CONF_RES after reset: 0, so REASON holds code 0 (R290). -/
def ConfRes.zero : ConfRes := ⟨false, 0, .confirmed⟩

/-- Group S after reset: 0 (R290). -/
def SyncRegs.zero : SyncRegs := ⟨0, 0⟩

/-- XING_INFO = 0 (R231, R290). -/
def XingInfo.zero : XingInfo := ⟨false, false, false⟩

/-- Group X all 0: after reset (R290) and what `clearX()` writes (R231). -/
def XingRegs.zero : XingRegs := ⟨.zero, 0, 0, 0, 0, 0, 0⟩

/-- The machine right after power-on reset: every register 0 (R20, R290), no command pending, nothing written
to the buffer (R291), the default parameters (R7). The model's own fields start empty (log entries 1, 7, 8). -/
def State.reset : State where
  params := paramsDefault
  status := .zero
  ctrl := .zero
  arg0 := 0
  arg1 := 0
  bufLen := 0
  hdr := .zero
  compat := .zero
  confRes := .zero
  sync := .zero
  probeSize := 0
  xing := .zero
  pending := none
  buf := []
  agenda := []
  readData := 0
  freeCount := 0

end Sys2Proof.Machine
end

