-- ==== Sys2Proof/Machine/Operands.lean ====
section
/-! DEFINITION. What a command reads: the operand registers and the input buffer (R11, R63 to R71, R190). -/

namespace Sys2Proof.Machine

/-- The byte the host wrote at an offset, or none if it never wrote there. -/
def Memory.get : Memory → Nat → Option Byte
  | [], _ => none
  | (c, x) :: m, a => if c = a then some x else Memory.get m a

/-- The byte the buffer holds at an offset: what the host wrote, else the free value of R291. -/
def Memory.byte (m : Memory) (a : Nat) : Byte :=
  match Memory.get m a with
  | some b => b
  | none => Config.powerOnByte a

/-- All that a buffer-reading command sees besides its operand (R123): the parameters, the buffer and BUF_LEN. -/
structure Input where
  params : Params
  buf : Memory
  len : Nat
  deriving DecidableEq, Repr

/-- The input of a command issued in a state. -/
def inputOf (s : State) : Input where
  params := s.params
  buf := s.buf
  len := s.bufLen.toNat

/-- ARG0 as a buffer offset (R24). -/
def offsetOperand (s : State) : Nat := s.arg0.toNat

/-- inBuf(a, n): `a + n <= BUF_LEN` on unbounded integers (R11, R71). -/
def inBuf (d : Input) (a n : Nat) : Bool := decide (a + n ≤ d.len)

/-- MemRead(a, 4): four bytes, the first most significant (R11, R63, R64). -/
def memRead4 (m : Memory) (a : Nat) : Word :=
  m.byte a ++ m.byte (a + 1) ++ m.byte (a + 2) ++ m.byte (a + 3)

/-- A bounded read of 4 bytes: none when they do not lie inside the buffer, so that "an out-of-bounds read
never returns data" (R71). -/
def readWord (d : Input) (a : Nat) : Option Word := if inBuf d a 4 then some (memRead4 d.buf a) else none

/-- hdrAt(o) under its bounds test (R190). -/
def hdrAt (d : Input) (o : Nat) : Option Word := readWord d o

/-- A candidate: an offset in bounds that holds a valid header (R191). -/
def isCandidate (d : Input) (o : Nat) : Bool :=
  match hdrAt d o with
  | some h => valid d.params h
  | none => false

end Sys2Proof.Machine
end

