-- ==== Sys2Proof/Machine/Flags.lean ====
section
/-! DEFINITION. The flag computations: error and reason codes (R36, R261), how the field registers are laid out
as words (R22, R23, R28, R35, R36, R40), and the check bits of HDR_INFO (R28, R159). -/

namespace Sys2Proof.Machine

/-- The code of an error (R261). -/
def ErrCode.code : ErrCode → BitVec 4
  | .none => 0
  | .invalidHeader => 1
  | .syncNotFound => 2
  | .freeProbeFailed => 3
  | .truncatedMetadata => 4
  | .unsupported => 5
  | .illegalCommand => 6
  | .bufferBounds => 7
  | .noDeterminableBitrate => 8
  | .frameIndexOutOfRange => 9
  | .unsupportedMutation => 10

/-- The code of a confirmation reason (R36). -/
def Reason.code : Reason → BitVec 4
  | .confirmed => 0
  | .outOfBuffer => 1
  | .invalid => 2
  | .incompatible => 3
  | .probeFailed => 4

/-- STATUS as the host reads it (R22): reserved 31:12, LAST_OP 11:8, ERR 7:4, reserved 3:2, DONE 1, BUSY 0. -/
def Status.toWord (st : Status) (busy : Bool) : Word :=
  0#20 ++ st.lastOp ++ st.err.code ++ 0#2 ++ BitVec.ofBool st.done ++ BitVec.ofBool busy

/-- CTRL as the host reads it (R23): IE in bit 0. -/
def Ctrl.toWord (c : Ctrl) : Word := 0#31 ++ BitVec.ofBool c.ie

/-- HDR_INFO as the host reads it (R28): MONO 12, LAYERNUM 11:10, GEOM_DEF 9 down to VALID 0. -/
def HdrInfo.toWord (i : HdrInfo) : Word :=
  0#19 ++ BitVec.ofBool i.mono ++ i.layerNum ++ BitVec.ofBool i.geomDef ++ BitVec.ofBool i.modeOk
    ++ BitVec.ofBool i.emphOk ++ BitVec.ofBool i.srOk ++ BitVec.ofBool i.brOk ++ BitVec.ofBool i.layerOk
    ++ BitVec.ofBool i.verOk ++ BitVec.ofBool i.syncOk ++ BitVec.ofBool i.free ++ BitVec.ofBool i.valid

/-- COMPAT as the host reads it (R35): B_VALID 2, A_VALID 1, EQ 0. -/
def Compat.toWord (c : Compat) : Word :=
  0#29 ++ BitVec.ofBool c.bValid ++ BitVec.ofBool c.aValid ++ BitVec.ofBool c.eq

/-- CONF_RES as the host reads it (R36): REASON 11:8, NACC 7:4, reserved 3:1, OK 0. -/
def ConfRes.toWord (c : ConfRes) : Word := 0#20 ++ c.reason.code ++ c.nacc ++ 0#3 ++ BitVec.ofBool c.ok

/-- XING_INFO as the host reads it (R40): MODIFIED 2, IS_VBR 1, PRESENT 0. -/
def XingInfo.toWord (i : XingInfo) : Word :=
  0#29 ++ BitVec.ofBool i.modified ++ BitVec.ofBool i.isVbr ++ BitVec.ofBool i.present

/-- The check bits of HDR_INFO for a header (R28, R159): each check is made on the raw fields, whether or not
the others fail. -/
def hdrInfoOf (p : Params) (h : Word) : HdrInfo where
  valid := valid p h
  free := valid p h && isFree h
  syncOk := syncOk p h
  verOk := verOk h
  layerOk := layerOk h
  brOk := brOk h
  srOk := srOk h
  emphOk := emphOk h
  modeOk := modeOk p h
  geomDef := valid p h && !isFree h
  layerNum := BitVec.ofNat 2 (layerNum h)
  mono := isMono h

/-- COMPAT for two raw headers (R35, R162). -/
def compatOf (p : Params) (a b : Word) : Compat where
  eq := compat a b
  aValid := valid p a
  bValid := valid p b

end Sys2Proof.Machine
end

