-- ==== Sys2Proof/Machine/Ops.lean ====
section
/-! DEFINITION. The shared operations: the buffer, the register file as the host sees it, and the lifecycle of a
command: issue (R120), completion (R11, R122) and reset (R290). The MFD takes no exception and returns from none
(R267, R268): completion with an error code is all there is. -/

namespace Sys2Proof.Machine

/-- The canonical form of the buffer: offsets strictly rising, so that no offset is listed twice. -/
abbrev Memory.wf (m : Memory) : Prop := m.Pairwise fun x y => x.1 < y.1

/-- Write one byte. -/
def Memory.put : Memory → Nat → Byte → Memory
  | [], a, b => [(a, b)]
  | (c, x) :: m, a, b =>
    if a < c then (a, b) :: (c, x) :: m
    else if a = c then (a, b) :: m
    else (c, x) :: Memory.put m a b

/-- STATUS.BUSY: a command is pending (R22, R51). -/
def busy (s : State) : Bool := s.pending.isSome

/-- `irq = STATUS.DONE and CTRL.IE` (R54, R270). -/
def irq (s : State) : Bool := s.status.done && s.ctrl.ie

/-- STATUS as a word. -/
def statusWord (s : State) : Word := s.status.toWord (busy s)

/-- The value of a register (R20). CMD holds nothing and reads 0 (R21). -/
def regValue (s : State) : Reg → Word
  | .cmd => 0
  | .status => statusWord s
  | .ctrl => s.ctrl.toWord
  | .arg0 => s.arg0
  | .arg1 => s.arg1
  | .bufLen => s.bufLen
  | .hdrRaw => s.hdr.raw
  | .hdrInfo => s.hdr.info.toWord
  | .bitrate => s.hdr.bitrate
  | .srate => s.hdr.srate
  | .spf => s.hdr.spf
  | .frameSize => s.hdr.frameSize
  | .sideInfo => s.hdr.sideInfo
  | .dataOffset => s.hdr.dataOffset
  | .compat => s.compat.toWord
  | .confRes => s.confRes.toWord
  | .syncOffset => s.sync.offset
  | .syncRejects => s.sync.rejects
  | .probeSize => s.probeSize
  | .xingInfo => s.xing.info.toWord
  | .xingTagOff => s.xing.tagOff
  | .xingMask => s.xing.mask
  | .xingFrames => s.xing.frames
  | .xingBytes => s.xing.bytes
  | .xingTocOff => s.xing.tocOff
  | .xingQuality => s.xing.quality

/-- Issue of a command (R120): no register but STATUS changes. -/
def issue (w : Word) (s : State) : State :=
  { s with pending := some w, status := { done := false, err := .none, lastOp := w.extractLsb 3 0 } }

/-- `complete(err)` (R11, R122): ERR <- err, BUSY <- 0, DONE <- 1. LAST_OP keeps what the issue set. -/
def complete (err : ErrCode) (s : State) : State :=
  { s with pending := none, status := { s.status with done := true, err := err } }

/-- The completion of an illegal command word (R126). -/
def illegalCommand (s : State) : State := complete .illegalCommand s

/-- Reset (R290, R291): every register 0, the pending command discarded, the buffer and the parameters as they
were. The turns still to come and what the host has read are not the MFD's and stay. -/
def resetEvent (s : State) : State :=
  { s with
    status := .zero, ctrl := .zero, arg0 := 0, arg1 := 0, bufLen := 0, hdr := .zero, compat := .zero
    confRes := .zero, sync := .zero, probeSize := 0, xing := .zero, pending := none }

/-- A write to BUF_LEN: `min(v, BUF_CAP)` (R26). -/
def clampLen (p : Params) (v : Word) : Word := BitVec.ofNat 32 (min v.toNat p.bufCap)

/-- A host write of a register while BUSY = 0 (R21 to R26); a write to a read-only register is ignored (R20). -/
def writeRegIdle (r : Reg) (v : Word) (s : State) : State :=
  match r with
  | .cmd => issue v s
  | .status => if v.getLsbD 1 then { s with status := { s.status with done := false } } else s
  | .ctrl => { s with ctrl := ⟨v.getLsbD 0⟩ }
  | .arg0 => { s with arg0 := v }
  | .arg1 => { s with arg1 := v }
  | .bufLen => { s with bufLen := clampLen s.params v }
  | .hdrRaw | .hdrInfo | .bitrate | .srate | .spf | .frameSize | .sideInfo | .dataOffset => s
  | .compat | .confRes | .syncOffset | .syncRejects | .probeSize => s
  | .xingInfo | .xingTagOff | .xingMask | .xingFrames | .xingBytes | .xingTocOff | .xingQuality => s

/-- A host write of a word at an offset of the window: ignored while BUSY = 1 (R121) and at an unmapped offset
(R47). -/
def writeReg (offset : Nat) (v : Word) (s : State) : State :=
  if busy s then s
  else
    match Reg.ofOffset offset with
    | some r => writeRegIdle r v s
    | none => s

/-- A host read of a word at an offset of the window: a result register read while BUSY = 1 gives a free value
(R124); an unmapped offset gives 0 (R47); every other read gives the register's value, and no read changes the
MFD (R70). -/
def readReg (offset : Nat) (s : State) : State :=
  match Reg.ofOffset offset with
  | some r =>
    if busy s && r.isResult then { s with readData := Config.busyRead s.freeCount, freeCount := s.freeCount + 1 }
    else { s with readData := regValue s r }
  | none => { s with readData := 0 }

/-- The command the engine is to complete: the pending word (R51, R122). -/
def fetchCommand (s : State) : Option Word := s.pending

end Sys2Proof.Machine
end

