-- ==== Sys2Proof/Machine/FrameSync.lean ====
section
/-! DEFINITION. CONFIRM, SYNC and PROBE (42_frame_sync.md): first the pure functions of the input, then the
commands. -/

namespace Sys2Proof.Machine

/-- The sizes `s, s + 1, …` of a probe, `n` of them (R194): the first size that satisfies the condition and
lands on a valid header wins; a size whose next header leaves the buffer ends the probe. -/
def probeFrom (d : Input) (o : Nat) (h : Word) : (n s : Nat) → Option Nat
  | 0, _ => none
  | n + 1, s =>
    match hdrAt d (o + s) with
    | none => none
    | some next => if probeCond d.params h s && valid d.params next then some s else probeFrom d o h n (s + 1)

/-- probe(o) (R194): sizes 4 to `maxFreeSize(h)` inclusive. Meant for an offset that holds a valid free header. -/
def probe (d : Input) (o : Nat) : Option Nat :=
  match hdrAt d o with
  | none => none
  | some h => probeFrom d o h (maxFreeSize d.params h + 1 - headerSize) headerSize

/-- frameLen(pos, h) (R196): the frame size, or for a free header the probed one; none when the probe fails. -/
def frameLen (d : Input) (pos : Nat) (h : Word) : Option Nat :=
  if isFree h then probe d pos else some (frameSize d.params h)

/-- What confirm(c) returns (R197): ok, nacc and reason. -/
structure Confirmation where
  ok : Bool
  nacc : Nat
  reason : Reason
  deriving DecidableEq, Repr

/-- The checks of R197 from header `k` at `pos` on, with `more` headers to follow it; `first` is the reference
header, none at the first one. Checks run in the order bounds, validity, compatibility, length (R198). -/
def confirmFrom (d : Input) : (more k pos : Nat) → (first : Option Word) → Confirmation
  | 0, k, pos, first =>
    match hdrAt d pos with
    | none => ⟨false, k, .outOfBuffer⟩
    | some h =>
      if !valid d.params h then ⟨false, k, .invalid⟩
      else if !compat h (first.getD h) then ⟨false, k, .incompatible⟩
      else ⟨true, k + 1, .confirmed⟩
  | more + 1, k, pos, first =>
    match hdrAt d pos with
    | none => ⟨false, k, .outOfBuffer⟩
    | some h =>
      if !valid d.params h then ⟨false, k, .invalid⟩
      else if !compat h (first.getD h) then ⟨false, k, .incompatible⟩
      else
        match frameLen d pos h with
        | none => ⟨false, k + 1, .probeFailed⟩
        | some len => confirmFrom d more (k + 1) (pos + len) (some (first.getD h))

/-- confirm(c) (R197). -/
def confirm (d : Input) (c : Nat) : Confirmation := confirmFrom d (d.params.pConfirm - 1) 0 c none

/-- What sync(start) returns (R199): found, offset and rejects. -/
structure SyncResult where
  found : Bool
  offset : Nat
  rejects : Nat
  deriving DecidableEq, Repr

/-- The scan of R199 over at most `n` offsets from `o` on. -/
def syncFrom (d : Input) : (n o rejects : Nat) → SyncResult
  | 0, _, rejects => ⟨false, d.len, rejects⟩
  | n + 1, o, rejects =>
    match hdrAt d o with
    | none => ⟨false, d.len, rejects⟩
    | some h =>
      if valid d.params h then
        if (confirm d o).ok then ⟨true, o, rejects⟩ else syncFrom d n (o + 1) (rejects + 1)
      else syncFrom d n (o + 1) rejects

/-- sync(start) (R199): the scan ends at BUF_LEN at the latest, so `BUF_LEN - start` offsets are enough (R200). -/
def sync (d : Input) (start : Nat) : SyncResult := syncFrom d (d.len - start) start 0

/-- CONF_RES for a confirmation (R36, R210). -/
def confResOf (c : Confirmation) : ConfRes := ⟨c.ok, BitVec.ofNat 4 c.nacc, c.reason⟩

/-- CONFIRM (R210). -/
def execConfirm (s : State) : Host.Outcome State Fault Refusal :=
  let c := confirm (inputOf s) (offsetOperand s)
  .next (complete (if c.ok then .none else .syncNotFound) { s with confRes := confResOf c })

/-- SYNC (R211). -/
def execSync (s : State) : Host.Outcome State Fault Refusal :=
  let r := sync (inputOf s) (offsetOperand s)
  .next (complete (if r.found then .none else .syncNotFound)
    { s with sync := ⟨BitVec.ofNat 32 r.offset, BitVec.ofNat 32 r.rejects⟩ })

/-- The size and the error code of a PROBE command at an offset (R212): the checks in the order bounds,
validity, free, probe. -/
def probeCommand (d : Input) (o : Nat) : Nat × ErrCode :=
  match hdrAt d o with
  | none => (0, .bufferBounds)
  | some h =>
    if !valid d.params h then (0, .invalidHeader)
    else if !isFree h then (0, .unsupported)
    else
      match probe d o with
      | some size => (size, .none)
      | none => (0, .freeProbeFailed)

/-- PROBE (R212). -/
def execProbe (s : State) : Host.Outcome State Fault Refusal :=
  let r := probeCommand (inputOf s) (offsetOperand s)
  .next (complete r.2 { s with probeSize := BitVec.ofNat 32 r.1 })

end Sys2Proof.Machine
end

