-- ==== Sys2Proof/Machine/HeaderCodec.lean ====
section
/-! DEFINITION. DECODE, DECODE_MEM and COMPARE (41_header_codec.md). -/

namespace Sys2Proof.Machine

/-- What `writeH(h)` writes to group H (R159). -/
def headerRegs (p : Params) (h : Word) : HdrRegs where
  raw := h
  info := hdrInfoOf p h
  bitrate := if valid p h && !isFree h then BitVec.ofNat 32 (bitrate p h) else 0
  srate := if valid p h then BitVec.ofNat 32 (samplingRate p h) else 0
  spf := if valid p h then BitVec.ofNat 32 (spf h) else 0
  frameSize := if valid p h && !isFree h then BitVec.ofNat 32 (frameSize p h) else 0
  sideInfo := if valid p h then BitVec.ofNat 32 (sideInfoSize h) else 0
  dataOffset := if valid p h then BitVec.ofNat 32 (dataOffset h) else 0

/-- NONE for a valid header, else INVALID_HEADER (R160). -/
def headerErr (p : Params) (h : Word) : ErrCode := if valid p h then .none else .invalidHeader

/-- `writeH(h)` and the completion that follows it (R159, R160, R161). -/
def decodeHeader (h : Word) (s : State) : State :=
  complete (headerErr s.params h) { s with hdr := headerRegs s.params h }

/-- DECODE (R160). -/
def execDecode (s : State) : Host.Outcome State Fault Refusal := .next (decodeHeader s.arg0 s)

/-- DECODE_MEM (R161): group H is unchanged when the read is out of bounds. -/
def execDecodeMem (s : State) : Host.Outcome State Fault Refusal :=
  match hdrAt (inputOf s) (offsetOperand s) with
  | some h => .next (decodeHeader h s)
  | none => .next (complete .bufferBounds s)

/-- COMPARE (R162). -/
def execCompare (s : State) : Host.Outcome State Fault Refusal :=
  .next (complete (if valid s.params s.arg0 && valid s.params s.arg1 then .none else .invalidHeader)
    { s with compat := compatOf s.params s.arg0 s.arg1 })

end Sys2Proof.Machine
end

