-- ==== Sys2Proof/Machine/Lifecycle.lean ====
section
/-! DEFINITION. NOP (40_command_lifecycle.md). -/

namespace Sys2Proof.Machine

/-- NOP (R125): completes with NONE. -/
def execNop (s : State) : Host.Outcome State Fault Refusal := .next (complete .none s)

end Sys2Proof.Machine
end

