-- ==== Sys2Proof/Machine/Xing.lean ====
section
/-! DEFINITION. XING, SET_FC and SET_BC (43_xing.md). -/

namespace Sys2Proof.Machine

/-- "Xing" in ASCII, as a big-endian word (R65). -/
def xingTag : Word := 0x58696E67

/-- "Info" in ASCII, as a big-endian word (R65). -/
def infoTag : Word := 0x496E666F

/-- The size of the TOC in bytes (R90). -/
def tocSize : Nat := 100

/-- One gated 4-byte field at `p` (R233): its value and the offset after it; an absent field is 0 and takes no
bytes; none when it leaves the buffer. -/
def xingField (d : Input) (present : Bool) (p : Nat) : Option (Word × Nat) :=
  if present then (readWord d p).map fun v => (v, p + 4) else some (0, p)

/-- The gated TOC at `p` (R236): its offset and the offset after it. The bytes are bounds-checked, not read. -/
def xingToc (d : Input) (present : Bool) (p : Nat) : Option (Nat × Nat) :=
  if present then (if inBuf d p tocSize then some (p, p + tocSize) else none) else some (0, p)

/-- The block after the tag (R90, R230): bitmask, frame-count, byte-count, TOC, quality, in that order. None is
TRUNCATED_METADATA. -/
def xingBlock (d : Input) (tag : Word) (p0 : Nat) : Option XingRegs := do
  let m ← readWord d (p0 + 4)
  let (fc, p) ← xingField d (m.getLsbD 0) (p0 + 8)
  let (bc, p) ← xingField d (m.getLsbD 1) p
  let (toc, p) ← xingToc d (m.getLsbD 2) p
  let (q, _) ← xingField d (m.getLsbD 3) p
  return {
    info := { present := true, isVbr := tag == xingTag, modified := false }
    tagOff := BitVec.ofNat 32 p0
    mask := m
    frames := fc
    bytes := bc
    tocOff := BitVec.ofNat 32 toc
    quality := q }

/-- Group X and the error code after the XING command at frame start `f` (R230). Every case but a whole block
leaves group X cleared (R231). -/
def parseXing (d : Input) (f : Nat) : XingRegs × ErrCode :=
  match hdrAt d f with
  | none => (.zero, .bufferBounds)
  | some h =>
    if !valid d.params h then (.zero, .invalidHeader)
    else
      match readWord d (f + dataOffset h) with
      | none => (.zero, .none)
      | some tag =>
        if tag != xingTag && tag != infoTag then (.zero, .none)
        else
          match xingBlock d tag (f + dataOffset h) with
          | some x => (x, .none)
          | none => (.zero, .truncatedMetadata)

/-- XING (R230). -/
def execXing (s : State) : Host.Outcome State Fault Refusal :=
  let r := parseXing (inputOf s) (offsetOperand s)
  .next (complete r.2 { s with xing := r.1 })

/-- The frame-count set to `v` (R240): MODIFIED is set only when the value changes. -/
def setFrames (v : Word) (x : XingRegs) : XingRegs :=
  if v = x.frames then x else { x with frames := v, info := { x.info with modified := true } }

/-- The byte-count set to `v` (R241). -/
def setBytes (v : Word) (x : XingRegs) : XingRegs :=
  if v = x.bytes then x else { x with bytes := v, info := { x.info with modified := true } }

/-- SET_FC (R240). -/
def execSetFc (s : State) : Host.Outcome State Fault Refusal :=
  if s.xing.info.present then .next (complete .none { s with xing := setFrames s.arg1 s.xing })
  else .next (complete .unsupported s)

/-- SET_BC (R241). -/
def execSetBc (s : State) : Host.Outcome State Fault Refusal :=
  if s.xing.info.present then .next (complete .none { s with xing := setBytes s.arg1 s.xing })
  else .next (complete .unsupported s)

end Sys2Proof.Machine
end

