-- ==== Sys2Proof/Machine/Dispatch.lean ====
section
/-! DEFINITION. The completion of each command: one arm per constructor of Instr. -/

namespace Sys2Proof.Machine

def exec (i : Instr) (s : State) : Host.Outcome State Fault Refusal :=
  match i with
  | .nop => Sys2Proof.Machine.execNop s
  | .decode => Sys2Proof.Machine.execDecode s
  | .decodeMem => Sys2Proof.Machine.execDecodeMem s
  | .compare => Sys2Proof.Machine.execCompare s
  | .confirm => Sys2Proof.Machine.execConfirm s
  | .sync => Sys2Proof.Machine.execSync s
  | .probe => Sys2Proof.Machine.execProbe s
  | .xing => Sys2Proof.Machine.execXing s
  | .setFc => Sys2Proof.Machine.execSetFc s
  | .setBc => Sys2Proof.Machine.execSetBc s

end Sys2Proof.Machine
end

