-- ==== Sys2Proof/Machine/HostPort.lean ====
section
/-! DEFINITION. One step of the host (R14): register read, register write, buffer write. -/

namespace Sys2Proof.Machine

/-- Whether a register access is inside the interface: an aligned 32-bit word (R67), inside the window (R61). -/
def registerAccess (offset width : Nat) (next : State) : Host.Outcome State Fault Refusal :=
  if !wordAccess offset width then .refused .notAWordAccess
  else if registerWindow ≤ offset then .fault .noSuchRegister
  else .next next

/-- A host write of one buffer byte: only while BUSY = 0 (R73), only inside the buffer (R60). -/
def bufferWrite (offset : Nat) (b : Byte) (s : State) : Host.Outcome State Fault Refusal :=
  if busy s then .refused .bufferWriteWhileBusy
  else if s.params.bufCap ≤ offset then .fault .noSuchBufferByte
  else .next { s with buf := s.buf.put offset b }

/-- One step of the host. -/
def hostStep (h : HostStep) (s : State) : Host.Outcome State Fault Refusal :=
  match h with
  | .read offset width => registerAccess offset width (readReg offset s)
  | .write offset width v => registerAccess offset width (writeReg offset v s)
  | .bufWrite offset b => bufferWrite offset b s

end Sys2Proof.Machine
end

