-- ==== Sys2Proof/Machine/Step.lean ====
section
/-! DEFINITION. One step of the whole machine: the next turn of the total order of R74, and the host's way of
placing a command for the very next step. -/

namespace Sys2Proof.Machine

/-- The engine's turn (R122): enabled exactly while a command is pending; it completes that command, by its
meaning or, for an illegal word, with ILLEGAL_COMMAND (R126). Not enabled, it changes nothing. -/
def engineTurn (s : State) : Host.Outcome State Fault Refusal :=
  match fetchCommand s with
  | none => .next s
  | some w =>
    match decodeWord w with
    | .ok i => exec i s
    | .error _ => .next (illegalCommand s)

/-- One turn. -/
def takeTurn (t : Turn) (s : State) : Host.Outcome State Fault Refusal :=
  match t with
  | .host h => hostStep h s
  | .engine => engineTurn s
  | .reset => .next (resetEvent s)

/-- One step: the first turn of the agenda; when no turn is left, the engine's (weak fairness, R127). -/
def step (s : State) : Host.Outcome State Fault Refusal :=
  match s.agenda with
  | [] => engineTurn s
  | t :: rest => takeTurn t { s with agenda := rest }

/-- The command word `w` issued (R120) and the engine given the next turn, so that the very next step completes
it. -/
def State.withFetchWord (s : State) (nbits w : Nat) : State :=
  { issue (tableWord nbits w) s with agenda := .engine :: s.agenda }

end Sys2Proof.Machine
end

