-- ==== Sys2Proof/Machine/HostProgram.lean ====
section
/-! DEFINITION. The host notation of R104 and R105 and its expansion into turns of the total order of R74. -/

namespace Sys2Proof.Machine

/-- One line of a host program (R104) or a pseudo-instruction (R105). A `WAIT` polls until BUSY = 0: `polls`
says how many polls read BUSY = 1 before the completion, which no rule bounds (R299). -/
inductive HostLine where
  | wr (offset : Nat) (value : Word)
  | rd (offset : Nat)
  | buf (offset : Nat) (bytes : List Byte)
  | bufz (offset n : Nat)
  | wait (polls : Nat)
  | run (i : Instr) (polls : Nat)
  | expect (offset : Nat) (value : Word)
  deriving DecidableEq, Repr

/-- `WR`: one aligned 32-bit write. -/
def wrTurn (offset : Nat) (v : Word) : Turn := .host (.write offset 32 v)

/-- `RD`: one aligned 32-bit read. -/
def rdTurn (offset : Nat) : Turn := .host (.read offset 32)

/-- `BUF`: the listed bytes from an offset on, one host step a byte, lowest offset first (R104 says "host writes"
and gives neither a width nor an order: DESIGN CHOICE, log entry 15). -/
def bufTurns : Nat → List Byte → List Turn
  | _, [] => []
  | o, b :: bs => .host (.bufWrite o b) :: bufTurns (o + 1) bs

/-- `WAIT`: polls that read BUSY = 1, the completion, and the poll that reads BUSY = 0. -/
def waitTurns (polls : Nat) : List Turn :=
  List.replicate polls (rdTurn Reg.status.offset) ++ [.engine, rdTurn Reg.status.offset]

/-- The turns of a line (R104, R105). -/
def HostLine.turns : HostLine → List Turn
  | .wr o v => [wrTurn o v]
  | .rd o => [rdTurn o]
  | .buf o bs => bufTurns o bs
  | .bufz o n => bufTurns o (List.replicate n 0)
  | .wait polls => waitTurns polls
  | .run i polls => wrTurn Reg.cmd.offset (encode i) :: waitTurns polls
  | .expect o _ => [rdTurn o]

/-- The turns of a host program. -/
def programTurns (ls : List HostLine) : List Turn := ls.flatMap HostLine.turns

end Sys2Proof.Machine
end

