-- ==== Sys2Proof/Machine/SyncFsm.lean ====
section
/-! DEFINITION. The internal states of one SYNC command, one transition at a time (the table of R201). They are
hidden (R51) and SYNC computes them in its one completion step, as R15 and R201 allow; these definitions give
the scan cursor, the candidate, the confirmation index and the probe size their places, and are what the
function `sync` is held against (log entry 4). -/

namespace Sys2Proof.Machine

/-- The states of R201. Every state carries the rejections counted so far. -/
inductive SyncFsm where
  | scanning (o rejects : Nat)
  | confirming (c k pos : Nat) (first : Option Word) (rejects : Nat)
  | probing (c k pos size : Nat) (first : Word) (rejects : Nat)
  | resyncing (c rejects : Nat)
  | found (c rejects : Nat)
  | notFound (rejects : Nat)
  deriving DecidableEq, Repr

/-- SCANNING: the cursor moves on, or a candidate is to be confirmed. -/
def scanningNext (d : Input) (o rejects : Nat) : SyncFsm :=
  match hdrAt d o with
  | none => .notFound rejects
  | some h => if valid d.params h then .confirming o 0 o none rejects else .scanning (o + 1) rejects

/-- CONFIRMING, "per rule R197". -/
def confirmingNext (d : Input) (c k pos : Nat) (first : Option Word) (rejects : Nat) : SyncFsm :=
  match hdrAt d pos with
  | none => .resyncing c rejects
  | some h =>
    if !valid d.params h then .resyncing c rejects
    else if !compat h (first.getD h) then .resyncing c rejects
    else if d.params.pConfirm ≤ k + 1 then .found c rejects
    else if isFree h then .probing c k pos headerSize (first.getD h) rejects
    else .confirming c (k + 1) (pos + frameSize d.params h) (some (first.getD h)) rejects

/-- PROBING, "per rule R194": one size at a time. -/
def probingNext (d : Input) (c k pos size : Nat) (first : Word) (rejects : Nat) : SyncFsm :=
  match hdrAt d pos with
  | none => .resyncing c rejects
  | some h =>
    if maxFreeSize d.params h < size then .resyncing c rejects
    else
      match hdrAt d (pos + size) with
      | none => .resyncing c rejects
      | some next =>
        if probeCond d.params h size && valid d.params next then
          .confirming c (k + 1) (pos + size) (some first) rejects
        else .probing c k pos (size + 1) first rejects

/-- One transition of R201; FOUND and NOTFOUND are completions. -/
def fsmNext (d : Input) : SyncFsm → SyncFsm
  | .scanning o rejects => scanningNext d o rejects
  | .confirming c k pos first rejects => confirmingNext d c k pos first rejects
  | .probing c k pos size first rejects => probingNext d c k pos size first rejects
  | .resyncing c rejects => .scanning (c + 1) (rejects + 1)
  | .found c rejects => .found c rejects
  | .notFound rejects => .notFound rejects

/-- `n` transitions. -/
def fsmRun (d : Input) : Nat → SyncFsm → SyncFsm
  | 0, x => x
  | n + 1, x => fsmRun d n (fsmNext d x)

/-- The completion state that stands for a result of `sync`. -/
def SyncResult.toFsm (r : SyncResult) : SyncFsm := if r.found then .found r.offset r.rejects else .notFound r.rejects

end Sys2Proof.Machine
end

