-- ==== Sys2Proof/Safety.lean ====
section
/-! DEFINITION. What a safe run is (no step stops), the duties of a host (R67, R73, R296), the invariant of the
machine, and the spec's tables over all commands in which claims are written (R53, R92, R202, R263). -/

namespace Sys2Proof

open Machine

/-- `k` steps from `s`, stopping at the first fault or refusal. -/
def run : Nat → State → Host.Outcome State Fault Refusal
  | 0, s => .next s
  | k + 1, s =>
    match step s with
    | .next t => run k t
    | .fault r => .fault r
    | .refused r => .refused r

/-- A run from `s` never stops. -/
def SafeRun (s : State) : Prop := ∀ k, ∃ t, run k s = .next t

/-- Whether BUSY is 1 after a turn, if it was `b` before. -/
def busyAfter (b : Bool) : Turn → Bool
  | .engine => false
  | .reset => false
  | .host (.write offset _ _) => b || offset == Reg.cmd.offset
  | .host (.read _ _) => b
  | .host (.bufWrite _ _) => b

/-- A turn a host may take: inside the interface, and no buffer write while BUSY = 1 (R67, R73, R296). -/
def turnAllowed (p : Params) (b : Bool) : Turn → Bool
  | .engine => true
  | .reset => true
  | .host (.bufWrite offset v) => !b && (HostStep.bufWrite offset v).wellFormed p
  | .host h => h.wellFormed p

/-- Every turn of an agenda keeps the host's duties, starting with BUSY = `b`. -/
def dutiful (p : Params) : Bool → List Turn → Bool
  | _, [] => true
  | b, t :: rest => turnAllowed p b t && dutiful p (busyAfter b t) rest

/-- The register part of the invariant: BUSY and DONE are never both 1 (R22); while a command is pending ERR is
0 and LAST_OP is its OP (R120, R124); no reserved error code is held (R262). -/
structure StatusInv (s : State) : Prop where
  busy_not_done : s.pending.isSome → s.status.done = false
  busy_no_err : s.pending.isSome → s.status.err = .none
  busy_last_op : ∀ w, s.pending = some w → s.status.lastOp = w.extractLsb 3 0
  err_written : s.status.err.code.toNat ≤ 7

/-- The result part: group H is zero or what `writeH` gives for HDR_RAW (R159); group X is zero unless PRESENT
(R41 to R46); CONF_RES.OK only with REASON 0 and NACC = P_CONFIRM (R36); PROBE_SIZE is 0 or at least 4 (R194);
NACC is at most P_CONFIRM (R36). -/
structure ResultInv (s : State) : Prop where
  hdr_current : s.hdr = .zero ∨ s.hdr = headerRegs s.params s.hdr.raw
  xing_absent : s.xing.info.present = false → s.xing = .zero
  conf_ok : s.confRes.ok = true → s.confRes.reason = .confirmed ∧ s.confRes.nacc = BitVec.ofNat 4 s.params.pConfirm
  conf_nacc : s.confRes.nacc.toNat ≤ s.params.pConfirm
  conf_confirmed : s.confRes.reason = .confirmed → s.confRes.ok = true ∨ s.confRes = .zero
  probe_size : s.probeSize = 0 ∨ 4 ≤ s.probeSize.toNat

/-- The invariant of the machine: legal parameters, BUF_LEN within the capacity (D10), the buffer in canonical
form and within its capacity, and the two parts above. -/
structure Inv (s : State) : Prop where
  params_legal : paramsLegal s.params = true
  len_cap : s.bufLen.toNat ≤ s.params.bufCap
  buf_wf : s.buf.wf
  buf_cap : ∀ c ∈ s.buf, c.1 < s.params.bufCap
  status : StatusInv s
  result : ResultInv s

/-- The registers a command writes: STATUS and its own group (the list of R53). -/
def writes : Instr → Reg → Bool
  | _, .status => true
  | .nop, _ => false
  | .decode, r | .decodeMem, r =>
    [Reg.hdrRaw, .hdrInfo, .bitrate, .srate, .spf, .frameSize, .sideInfo, .dataOffset].contains r
  | .compare, r => r == .compat
  | .confirm, r => r == .confRes
  | .sync, r => r == .syncOffset || r == .syncRejects
  | .probe, r => r == .probeSize
  | .xing, r =>
    [Reg.xingInfo, .xingTagOff, .xingMask, .xingFrames, .xingBytes, .xingTocOff, .xingQuality].contains r
  | .setFc, r => r == .xingFrames || r == .xingInfo
  | .setBc, r => r == .xingBytes || r == .xingInfo

/-- The codes a command may write to STATUS.ERR (the table of R263). -/
def errorCodes : Instr → List Nat
  | .nop => [0]
  | .decode => [0, 1]
  | .decodeMem => [0, 1, 7]
  | .compare => [0, 1]
  | .confirm => [0, 2]
  | .sync => [0, 2]
  | .probe => [0, 1, 3, 5, 7]
  | .xing => [0, 1, 4, 7]
  | .setFc => [0, 5]
  | .setBc => [0, 5]

/-- The bitrate table entry, in kbit/s, for a header's version and layer bits and a bitrate index 1 to 14 (R144):
each column is named by the bits 20:19 and 18:17 themselves. -/
def kbpsByFields (p : Params) (h : Word) (index : Nat) : Nat :=
  (if h.extractLsb 20 19 = 0b11#2 then
    (if h.extractLsb 18 17 = 0b11#2 then p.bitrateKbps.v1l1
      else if h.extractLsb 18 17 = 0b10#2 then p.bitrateKbps.v1l2 else p.bitrateKbps.v1l3)
  else
    (if h.extractLsb 18 17 = 0b11#2 then p.bitrateKbps.v2l1
      else if h.extractLsb 18 17 = 0b10#2 then p.bitrateKbps.v2l2 else p.bitrateKbps.v2l3)).getD (index - 1) 0

/-- The sampling rate, in Hz, for a header's version bits 20:19 and sampling-rate bits 11:10 (R145, R148). -/
def hzByFields (p : Params) (h : Word) : Nat :=
  (if h.extractLsb 20 19 = 0b11#2 then p.srateHz.mpeg1
    else if h.extractLsb 20 19 = 0b10#2 then p.srateHz.mpeg2 else p.srateHz.mpeg25).getD (h.extractLsb 11 10).toNat 0

/-- The frame size in bytes at a bitrate in bit/s and a sampling rate in Hz, for a header's version, layer and
padding bits (R150, R151). -/
def frameBytesByFields (h : Word) (bps hz : Nat) : Nat :=
  if h.extractLsb 18 17 = 0b11#2 then (12 * bps / hz + (h.getLsbD 9).toNat) * 4
  else if h.extractLsb 18 17 = 0b10#2 ∨ h.extractLsb 20 19 = 0b11#2 then 144 * bps / hz + (h.getLsbD 9).toNat
  else 72 * bps / hz + (h.getLsbD 9).toNat

/-- The headers at `pos 0 .. pos (n - 1)` each have a length, and it lands on the next position (R196, R197). -/
def Lands (d : Input) (pos : Nat → Nat) (n : Nat) : Prop :=
  ∀ k < n, ∃ h len, hdrAt d (pos k) = some h ∧ frameLen d (pos k) h = some len ∧ pos (k + 1) = pos k + len

/-- The header at `a` lies in the buffer, is valid and is compatible with the header at `c` (R197). -/
def Accepted (d : Input) (c a : Nat) : Prop :=
  ∃ first h, hdrAt d c = some first ∧ hdrAt d a = some h ∧ valid d.params h = true ∧ compat h first = true

/-- The number of candidates (R191) at offsets `a, …, b - 1`. -/
def candidatesIn (d : Input) (a b : Nat) : Nat := ((List.range' a (b - a)).filter (isCandidate d)).length

/-- The length of a Xing/Info block (R90). -/
def blockLength (m : Word) : Nat :=
  8 + 4 * (m.getLsbD 0).toNat + 4 * (m.getLsbD 1).toNat + 100 * (m.getLsbD 2).toNat + 4 * (m.getLsbD 3).toNat

/-- The offsets of the byte-count, the TOC and the quality of a block at `p0` (R90, R92); the frame-count is at
`p0 + 8`. -/
def byteCountOffset (p0 : Nat) (m : Word) : Nat := p0 + 8 + 4 * (m.getLsbD 0).toNat
def tocOffset (p0 : Nat) (m : Word) : Nat := byteCountOffset p0 m + 4 * (m.getLsbD 1).toNat
def qualityOffset (p0 : Nat) (m : Word) : Nat := tocOffset p0 m + 100 * (m.getLsbD 2).toNat

/-- A frame with a valid header at `f` whose block position `p0` holds the tag "Xing" or "Info" (R230, R232). -/
def TagAt (d : Input) (f p0 : Nat) (tag : Word) : Prop :=
  ∃ h, hdrAt d f = some h ∧ valid d.params h = true ∧ p0 = f + dataOffset h ∧ readWord d p0 = some tag
    ∧ (tag = 0x58696E67#32 ∨ tag = 0x496E666F#32)

/-- The tag is followed by its bitmask `m` and every field the mask declares lies in the buffer (R90, R230). -/
def WholeBlock (d : Input) (p0 : Nat) (m : Word) : Prop :=
  readWord d (p0 + 4) = some m ∧ p0 + blockLength m ≤ d.len

/-- The turn a step takes: the first of the agenda, or the engine's when none is left. -/
def nextTurn (s : State) : Turn := s.agenda.headD .engine

end Sys2Proof
end

