-- ==== Sys2Proof/Certificates/Slice0/Obligations.lean ====
section
/-! DEFINITION. The statements for the provers, from the numbered rules of spec/. -/

open Sys2Proof Sys2Proof.Machine

/-! ### Encoding -/

/-- R101: the ten command words, written out from the opcode map, decode to their commands. -/
def Obligations.SpecWordsDecode : Prop :=
  decodeWord 0x00000000#32 = .ok .nop ∧ decodeWord 0x00000001#32 = .ok .decode
  ∧ decodeWord 0x00000002#32 = .ok .decodeMem ∧ decodeWord 0x00000003#32 = .ok .compare
  ∧ decodeWord 0x00000004#32 = .ok .confirm ∧ decodeWord 0x00000005#32 = .ok .sync
  ∧ decodeWord 0x00000006#32 = .ok .probe ∧ decodeWord 0x00000007#32 = .ok .xing
  ∧ decodeWord 0x00000008#32 = .ok .setFc ∧ decodeWord 0x00000009#32 = .ok .setBc

/-- R101: a word is a command iff it is exactly that command's word; decode and encode agree both ways, and
there are ten command words. -/
def Obligations.DecodeAndEncodeAgree : Prop :=
  (∀ (w : Word) (i : Instr), decodeWord w = .ok i ↔ w = encode i)
  ∧ (∀ i : Instr, i.wellFormed = true → decodeTableWord 32 (encode i).toNat = some i)

/-- R102: the illegal words are those with OP in 0xA..0xF and those with a bit of 31:4 set; the decoder names
which. Such a pending word completes with ILLEGAL_COMMAND and changes no register but STATUS (R126), whether the
engine's turn is the first of the agenda or no turn is left. -/
def Obligations.IllegalWordsCompleteWithIllegalCommand : Prop :=
  (∀ w : Word, decodeWord w = .error .reservedBits ↔ w.extractLsb 31 4 ≠ 0)
  ∧ (∀ w : Word, decodeWord w = .error .illegalOpcode ↔ (w.extractLsb 31 4 = 0 ∧ 0xA ≤ (w.extractLsb 3 0).toNat))
  ∧ ∀ (s : State) (w : Word), s.pending = some w → (s.agenda = [] ∨ ∃ rest, s.agenda = .engine :: rest) →
      (w.extractLsb 31 4 ≠ 0 ∨ 0xA ≤ (w.extractLsb 3 0).toNat) →
      ∃ t, step s = .next t ∧ busy t = false ∧ t.status.done = true ∧ t.status.err = .illegalCommand
        ∧ t.status.lastOp = s.status.lastOp ∧ (∀ r, r ≠ .status → regValue t r = regValue s r)
        ∧ ∀ a, t.buf.byte a = s.buf.byte a

/-! ### Lifecycle of a command -/

/-- R122: when the pending word decodes to a command, the engine's step is exec of that command, whether its
turn is the first of the agenda or no turn is left. -/
def Obligations.StepRunsTheDecodedCommand : Prop :=
  ∀ (s : State) (w : Word) (i : Instr), s.pending = some w → decodeWord w = .ok i →
    (s.agenda = [] → step s = exec i s)
    ∧ ∀ rest, s.agenda = .engine :: rest → step s = exec i { s with agenda := rest }

/-- The model's own (log entry 2): `withFetchWord` is the issue of the word (R120) with the engine's turn next,
so the very next step is exec of that command on the issued state. -/
def Obligations.WithFetchWordRunsTheCommandNext : Prop :=
  ∀ (s : State) (i : Instr), step (s.withFetchWord 32 (encode i).toNat) = exec i (issue (encode i) s)

/-- R120: a host write of `w` to CMD while BUSY = 0 makes `w` pending; STATUS becomes BUSY = 1, DONE = 0,
ERR = 0, LAST_OP = w[3:0]; nothing else changes. -/
def Obligations.CmdWriteIssuesTheCommand : Prop :=
  ∀ (s : State) (w : Word) (rest : List Turn), busy s = false → s.agenda = .host (.write 0x00 32 w) :: rest →
    ∃ t, step s = .next t ∧ t.pending = some w
      ∧ regValue t .status = 0#20 ++ w.extractLsb 3 0 ++ 0#4 ++ 0#2 ++ 0#1 ++ 1#1
      ∧ (∀ r, r ≠ .status → regValue t r = regValue s r)
      ∧ (∀ a, t.buf.byte a = s.buf.byte a) ∧ t.agenda = rest

/-- R121: every host register write while BUSY = 1 is ignored: it changes no state and raises no error. -/
def Obligations.WritesWhileBusyAreIgnored : Prop :=
  ∀ (s : State) (o : Nat) (v : Word) (rest : List Turn), busy s = true → o % 4 = 0 → o < 256 →
    s.agenda = .host (.write o 32 v) :: rest → step s = .next { s with agenda := rest }

/-- R120 ("they cannot change until completion"), R121 and R73: while BUSY = 1, no step but the engine's and a
reset changes the operands, the buffer, the pending word or a register. -/
def Obligations.OperandsHoldUntilCompletion : Prop :=
  ∀ (s t : State), busy s = true → step s = .next t → nextTurn s ≠ .engine → nextTurn s ≠ .reset →
    t.pending = s.pending ∧ t.buf = s.buf ∧ ∀ r, regValue t r = regValue s r

/-- R122, R127: when no turn is left, the engine's step completes whatever command is pending, legal or not, with
DONE = 1 and LAST_OP as the issue set it. When turns are left that keep the host's duties, a step among them or the one
after them does so if no turn is a reset; if one is, the machine is still idle by then, the reset having possibly
discarded the command (R290). The bound in turns is the model's choice (log entry 1): R127 and R299 give none. -/
def Obligations.EveryPendingCommandCompletes : Prop :=
  (∀ (s : State) (w : Word), s.pending = some w → s.agenda = [] →
    ∃ t, step s = .next t ∧ busy t = false ∧ t.status.done = true ∧ t.status.lastOp = s.status.lastOp)
  ∧ ∀ s : State, busy s = true → dutiful s.params true s.agenda = true →
    ∃ k t, k ≤ s.agenda.length + 1 ∧ run k s = .next t ∧ busy t = false
      ∧ (Turn.reset ∉ s.agenda → t.status.done = true ∧ t.status.lastOp = s.status.lastOp)

/-- R105, R74: issue, any number of polls that read BUSY = 1, completion, and a poll that reads BUSY = 0: the
host's `RUN` reads the completed STATUS of the command, with the result `exec` gives on the issued state. -/
def Obligations.RunPollsUntilTheCompletedStatus : Prop :=
  ∀ (s : State) (i : Instr) (polls : Nat), busy s = false → s.agenda = (HostLine.run i polls).turns →
    ∃ t, exec i (issue (encode i) { s with
          agenda := []
          readData := if polls = 0 then s.readData else 0#20 ++ (encode i).extractLsb 3 0 ++ 0#7 ++ 1#1 }) = .next t
      ∧ run (polls + 3) s = .next { t with readData := regValue t .status }
      ∧ busy t = false ∧ t.status.done = true ∧ t.status.lastOp = (encode i).extractLsb 3 0

/-- R53: each command, and an illegal one, writes STATUS and only the registers of its own group (an illegal one
none but STATUS); SET_FC and SET_BC change nothing of XING_INFO but MODIFIED. No byte of the buffer, no parameter and
not LAST_OP changes, for an illegal command either (R11, R120). -/
def Obligations.CommandsWriteOnlyTheirGroup : Prop :=
  (∀ (i : Instr) (s t : State), exec i s = .next t →
    (∀ r, writes i r = false → regValue t r = regValue s r)
    ∧ ((i = .setFc ∨ i = .setBc) →
        t.xing.info.present = s.xing.info.present ∧ t.xing.info.isVbr = s.xing.info.isVbr)
    ∧ t.status.lastOp = s.status.lastOp ∧ t.params = s.params ∧ ∀ a, t.buf.byte a = s.buf.byte a)
  ∧ ∀ s : State, (∀ r, r ≠ .status → regValue (illegalCommand s) r = regValue s r)
    ∧ (illegalCommand s).status.lastOp = s.status.lastOp ∧ (illegalCommand s).params = s.params
    ∧ ∀ a, (illegalCommand s).buf.byte a = s.buf.byte a

/-- The model's own (log entries 1, 7, 8): no command changes the turns to come, what the host has read, or the count
of free values. -/
def Obligations.CommandsLeaveTheModelsOwnFields : Prop :=
  ∀ (i : Instr) (s t : State), exec i s = .next t →
    t.agenda = s.agenda ∧ t.readData = s.readData ∧ t.freeCount = s.freeCount

/-- R263: which command writes which error code, and an illegal word code 6. -/
def Obligations.CommandsWriteOnlyTheirErrorCodes : Prop :=
  (∀ (i : Instr) (s t : State), exec i s = .next t → t.status.err.code.toNat ∈ errorCodes i)
  ∧ ∀ s : State, (illegalCommand s).status.err.code = 6

/-- After every completed command STATUS = (LAST_OP << 8) | (ERR << 4) | 0x2 (95_test_vectors.md; R22, R122). -/
def Obligations.CompletedStatusWord : Prop :=
  ∀ (i : Instr) (s t : State), exec i s = .next t →
    regValue t .status = (s.status.lastOp.setWidth 32 <<< 8) ||| (t.status.err.code.setWidth 32 <<< 4) ||| 0x2#32

/-- R125: NOP completes with NONE and writes STATUS only. -/
def Obligations.NopCompletes : Prop :=
  ∀ s : State, ∃ t, exec .nop s = .next t ∧ busy t = false ∧ t.status.done = true ∧ t.status.err = .none
    ∧ t.status.lastOp = s.status.lastOp ∧ irq t = s.ctrl.ie
    ∧ (∀ r, r ≠ .status → regValue t r = regValue s r) ∧ ∀ a, t.buf.byte a = s.buf.byte a

/-! ### Registers, interrupt, reset -/

/-- R47: an aligned offset in 0x68..0xFC reads 0 and ignores writes. -/
def Obligations.UnmappedOffsetsReadZeroAndIgnoreWrites : Prop :=
  ∀ (s : State) (o : Nat) (v : Word) (rest : List Turn), o % 4 = 0 → 0x68 ≤ o → o ≤ 0xFC →
    (s.agenda = .host (.read o 32) :: rest → step s = .next { s with agenda := rest, readData := 0 })
    ∧ (s.agenda = .host (.write o 32 v) :: rest → step s = .next { s with agenda := rest })

/-- R70: no register read has a side effect on the MFD. A read while BUSY = 0 returns the register's value
(R20, R74). -/
def Obligations.ReadsHaveNoSideEffect : Prop :=
  ∀ (s : State) (o : Nat) (rest : List Turn), o % 4 = 0 → o < 256 → s.agenda = .host (.read o 32) :: rest →
    ∃ t, step s = .next t ∧ (∀ r, regValue t r = regValue s r) ∧ t.buf = s.buf ∧ t.pending = s.pending
      ∧ irq t = irq s ∧ t.agenda = rest
      ∧ ∀ r : Reg, busy s = false → r.offset = o → t.readData = regValue s r ∧ t.freeCount = s.freeCount

/-- R124: what a read returns while BUSY = 1. STATUS shows BUSY and the pending OP with DONE = ERR = 0 (in a
state of the invariant); CTRL, ARG0, ARG1 and BUF_LEN their values; CMD 0; a result register whatever the free
value `Config.busyRead` is at the next draw, which the counter then passes (the counter is the model's, log entry
8). -/
def Obligations.ReadsWhileBusy : Prop :=
  ∀ (s : State) (w : Word) (r : Reg) (rest : List Turn), Inv s → s.pending = some w →
    s.agenda = .host (.read r.offset 32) :: rest →
    ∃ t, step s = .next t
      ∧ (r = .status → t.readData = 0#20 ++ w.extractLsb 3 0 ++ 0#7 ++ 1#1)
      ∧ (r = .cmd → t.readData = 0)
      ∧ (r = .ctrl ∨ r = .arg0 ∨ r = .arg1 ∨ r = .bufLen → t.readData = regValue s r)
      ∧ (r.isResult = true → t.readData = Config.busyRead s.freeCount ∧ t.freeCount = s.freeCount + 1)

/-- R24, R25, R48, R20: an idle write of ARG0 or ARG1 stores all 32 bits and changes nothing else; an idle write
of a result register (access RO) is ignored. -/
def Obligations.IdleWritesStoreOperandsOnly : Prop :=
  ∀ (s : State) (r : Reg) (v : Word) (rest : List Turn), busy s = false →
    s.agenda = .host (.write r.offset 32 v) :: rest →
    (r = .arg0 ∨ r = .arg1 → ∃ t, step s = .next t ∧ regValue t r = v
      ∧ (∀ q, q ≠ r → regValue t q = regValue s q) ∧ (∀ a, t.buf.byte a = s.buf.byte a) ∧ t.pending = none)
    ∧ (r.isResult = true → step s = .next { s with agenda := rest })

/-- R26, D10: an idle write of BUF_LEN makes it `min(v, BUF_CAP)`; nothing else changes. -/
def Obligations.BufLenWriteClamps : Prop :=
  ∀ (s : State) (v : Word) (rest : List Turn), paramsLegal s.params = true → busy s = false →
    s.agenda = .host (.write 0x14 32 v) :: rest →
    ∃ t, step s = .next t ∧ (regValue t .bufLen).toNat = min v.toNat s.params.bufCap
      ∧ (∀ q, q ≠ .bufLen → regValue t q = regValue s q) ∧ ∀ a, t.buf.byte a = s.buf.byte a

/-- R23: CTRL holds bit 0 only: an idle write of `v` makes it read `v & 1`. -/
def Obligations.CtrlHoldsInterruptEnableOnly : Prop :=
  ∀ (s : State) (v : Word) (rest : List Turn), busy s = false → s.agenda = .host (.write 0x08 32 v) :: rest →
    ∃ t, step s = .next t ∧ regValue t .ctrl = v &&& 1#32 ∧ (∀ q, q ≠ .ctrl → regValue t q = regValue s q)
      ∧ ∀ a, t.buf.byte a = s.buf.byte a

/-- R22: an idle write of STATUS clears DONE iff bit 1 is 1 and changes nothing else. -/
def Obligations.StatusWriteClearsDoneOnly : Prop :=
  ∀ (s : State) (v : Word) (rest : List Turn), busy s = false → s.agenda = .host (.write 0x04 32 v) :: rest →
    ∃ t, step s = .next t
      ∧ regValue t .status = (if v.getLsbD 1 then regValue s .status &&& ~~~0x2#32 else regValue s .status)
      ∧ (∀ q, q ≠ .status → regValue t q = regValue s q) ∧ ∀ a, t.buf.byte a = s.buf.byte a

/-- R48: only the engine and a reset change a result register: no step of the host does. -/
def Obligations.HostNeverChangesAResultRegister : Prop :=
  ∀ (s t : State) (h : HostStep) (r : Reg), hostStep h s = .next t → r.isResult = true →
    regValue t r = regValue s r

/-- The moves outside the interface stop the model by name: a register access of another width or at a misaligned
offset (R67) and a buffer write while BUSY = 1 (R73, R296) are refused; a register offset past the window and a buffer
offset past BUF_CAP are faults, which is the model's own choice (log entries 9, 10). -/
def Obligations.MovesOutsideTheInterfaceStop : Prop :=
  ∀ (s : State) (o width : Nat) (v : Word) (b : Byte) (rest : List Turn),
    ((s.agenda = .host (.read o width) :: rest ∨ s.agenda = .host (.write o width v) :: rest) →
      ((width ≠ 32 ∨ o % 4 ≠ 0) → step s = .refused .notAWordAccess)
      ∧ (width = 32 → o % 4 = 0 → 256 ≤ o → step s = .fault .noSuchRegister))
    ∧ (s.agenda = .host (.bufWrite o b) :: rest →
      (busy s = true → step s = .refused .bufferWriteWhileBusy)
      ∧ (busy s = false → s.params.bufCap ≤ o → step s = .fault .noSuchBufferByte))

/-- R60, R73: a buffer write while BUSY = 0 changes that byte and no other, and no register. -/
def Obligations.BufferWriteChangesOneByte : Prop :=
  ∀ (s : State) (o : Nat) (b : Byte) (rest : List Turn), busy s = false → o < s.params.bufCap →
    s.agenda = .host (.bufWrite o b) :: rest →
    ∃ t, step s = .next t ∧ t.buf.byte o = b ∧ (∀ a, a ≠ o → t.buf.byte a = s.buf.byte a)
      ∧ (∀ r, regValue t r = regValue s r) ∧ t.pending = s.pending

/-- R11: the MFD never writes the buffer: a step that changes it is a host's buffer write. The parameters never
change (R291). -/
def Obligations.OnlyTheHostWritesTheBuffer : Prop :=
  ∀ s t : State, step s = .next t →
    t.params = s.params ∧ ((∃ o b, nextTurn s = .host (.bufWrite o b)) ∨ t.buf = s.buf)

/-- R54: irq is STATUS.DONE and CTRL.IE at every instant, as the host reads them. -/
def Obligations.IrqIsDoneAndEnabled : Prop :=
  ∀ s : State, irq s = ((regValue s .status).getLsbD 1 && (regValue s .ctrl).getLsbD 0)

/-- R270: a completion with IE = 1 asserts irq; clearing DONE, issuing a command, or writing IE = 0 deasserts it;
setting IE while DONE = 1 asserts it at once. -/
def Obligations.IrqFollowsCompletionAndClears : Prop :=
  (∀ (i : Instr) (s t : State), exec i s = .next t → irq t = s.ctrl.ie)
  ∧ ∀ (s t : State) (o : Nat) (v : Word) (rest : List Turn), busy s = false →
      s.agenda = .host (.write o 32 v) :: rest → step s = .next t →
      (o = 0x04 → v.getLsbD 1 = true → irq t = false) ∧ (o = 0x00 → irq t = false)
      ∧ (o = 0x08 → v.getLsbD 0 = false → irq t = false)
      ∧ (o = 0x08 → v.getLsbD 0 = true → irq t = s.status.done)

/-- R290: a reset, in any state, makes every register 0, discards the pending command and deasserts irq; the
command that was pending never completes, since the engine's step is no longer enabled. It changes neither the buffer
nor the parameters (R291). -/
def Obligations.ResetClearsEveryRegister : Prop :=
  ∀ (s : State) (rest : List Turn), s.agenda = .reset :: rest →
    ∃ t, step s = .next t ∧ (∀ r, regValue t r = 0) ∧ t.pending = none ∧ busy t = false ∧ irq t = false
      ∧ engineTurn t = .next t ∧ t.buf = s.buf ∧ t.params = s.params

/-- R293: what each command completes with immediately after a reset. -/
def Obligations.CommandsAfterReset : Prop :=
  ∀ s : State, let z := resetEvent s
    (∀ i, i = .decodeMem ∨ i = .probe ∨ i = .xing → ∃ t, exec i z = .next t ∧ t.status.err = .bufferBounds)
    ∧ (∃ t, exec .confirm z = .next t ∧ t.status.err = .syncNotFound ∧ regValue t .confRes = 0x00000100#32)
    ∧ (∃ t, exec .sync z = .next t ∧ t.status.err = .syncNotFound ∧ regValue t .syncOffset = 0)
    ∧ (∀ i, i = .setFc ∨ i = .setBc → ∃ t, exec i z = .next t ∧ t.status.err = .unsupported)
    ∧ ∀ i, i = .decode ∨ i = .compare → ∃ t, exec i z = .next t ∧ t.status.err = .invalidHeader

/-! ### Header codec -/

/-- R141: the validity invariant, bit by bit. -/
def Obligations.ValidIffEveryCheckPasses : Prop :=
  ∀ (p : Params) (h : Word), valid p h = true ↔
    syncOk p h = true ∧ h.extractLsb 20 19 ≠ 0b01#2 ∧ h.extractLsb 18 17 ≠ 0b00#2 ∧ h.extractLsb 15 12 ≠ 0xF#4
    ∧ h.extractLsb 11 10 ≠ 0b11#2 ∧ h.extractLsb 1 0 ≠ 0b10#2 ∧ modeOk p h = true

/-- R140, R142: the sync check for both widths, and the mode check, which reads the table for MPEG-1 Layer 2
only. -/
def Obligations.SyncAndModeChecks : Prop :=
  ∀ (p : Params) (h : Word),
    (p.pSyncBits = 11 → (syncOk p h = true ↔ h.extractLsb 31 21 = 0x7FF#11))
    ∧ (p.pSyncBits = 12 → (syncOk p h = true ↔ h.extractLsb 31 20 = 0xFFF#12))
    ∧ (¬(h.extractLsb 20 19 = 0b11#2 ∧ h.extractLsb 18 17 = 0b10#2) → modeOk p h = true)
    ∧ (h.extractLsb 20 19 = 0b11#2 → h.extractLsb 18 17 = 0b10#2 →
        modeOk p h = if h.extractLsb 7 6 = 0b11#2 then p.l2ModeOk.mono.getD (h.extractLsb 15 12).toNat false
          else p.l2ModeOk.nonMono.getD (h.extractLsb 15 12).toNat false)

/-- R83, R141: protection, padding, private, mode extension, copyright and original are not checked: two words
that agree elsewhere are both valid or both invalid. -/
def Obligations.UncheckedBitsDoNotMatter : Prop :=
  ∀ (p : Params) (a b : Word), (a ^^^ b) &&& 0xFFFEFCC3#32 = 0 → valid p a = valid p b

/-- R157: two headers are compatible iff they agree under COMPAT_MASK, which is to say in version, layer,
sampling-rate index, channel mode and emphasis (R84). -/
def Obligations.CompatIffMaskedFieldsAgree : Prop :=
  ∀ a b : Word, (compat a b = true ↔ (a ^^^ b) &&& 0x001E0CC3#32 = 0) ∧ (compat a b = true ↔
    version a = version b ∧ layer a = layer b ∧ srIdx a = srIdx b ∧ mode a = mode b ∧ emph a = emph b)

/-- R149, R150: samples per frame, slot size and slot coefficient by layer and version, the coefficient exact. -/
def Obligations.SamplesAndSlots : Prop :=
  ∀ h : Word, (h.extractLsb 18 17 = 0b11#2 → spf h = 384 ∧ slot h = 4 ∧ coef h = 12)
    ∧ (h.extractLsb 18 17 = 0b10#2 → spf h = 1152 ∧ slot h = 1 ∧ coef h = 144)
    ∧ (h.extractLsb 18 17 = 0b01#2 → slot h = 1 ∧
        (h.extractLsb 20 19 = 0b11#2 → spf h = 1152 ∧ coef h = 144)
        ∧ (h.extractLsb 20 19 ≠ 0b11#2 → spf h = 576 ∧ coef h = 72))
    ∧ (h.extractLsb 18 17 ≠ 0b00#2 → coef h * (8 * slot h) = spf h)

/-- R154, R155, R85: side-information size and data offset; the protection bit has no part in them. -/
def Obligations.SideInfoAndDataOffset : Prop :=
  ∀ h : Word,
    (h.extractLsb 18 17 = 0b01#2 → sideInfoSize h =
      if h.extractLsb 20 19 = 0b11#2 then (if h.extractLsb 7 6 = 0b11#2 then 17 else 32)
      else (if h.extractLsb 7 6 = 0b11#2 then 9 else 17))
    ∧ (h.extractLsb 18 17 = 0b11#2 ∨ h.extractLsb 18 17 = 0b10#2 → sideInfoSize h = 0)
    ∧ dataOffset h = 4 + sideInfoSize h ∧ dataOffset (h ^^^ 0x00010000#32) = dataOffset h

/-- R152: with the default tables, over every valid non-free header, the product of R151 stays at or below
55 296 000 and the frame size lies in 24..2881; both extremes occur. -/
def Obligations.FrameSizesLieBetween24And2881 : Prop :=
  (∀ (p : Params) (h : Word), p.bitrateKbps = bitrateKbpsDefault → p.srateHz = srateHzDefault →
    valid p h = true → isFree h = false →
    coef h * bitrate p h ≤ 55296000 ∧ 24 ≤ frameSize p h ∧ frameSize p h ≤ 2881)
  ∧ valid paramsDefault 0xFFF31400#32 = true ∧ frameSize paramsDefault 0xFFF31400#32 = 24
  ∧ valid paramsDefault 0xFFE5EA00#32 = true ∧ frameSize paramsDefault 0xFFE5EA00#32 = 2881

/-- R28: the bits of HDR_INFO. -/
def Obligations.HdrInfoBits : Prop :=
  ∀ (p : Params) (h : Word), let w := (hdrInfoOf p h).toWord
    w.getLsbD 0 = (w.getLsbD 2 && w.getLsbD 3 && w.getLsbD 4 && w.getLsbD 5 && w.getLsbD 6 && w.getLsbD 7
      && w.getLsbD 8)
    ∧ w.getLsbD 1 = (w.getLsbD 0 && h.extractLsb 15 12 == 0#4)
    ∧ w.getLsbD 2 = syncOk p h ∧ w.getLsbD 3 = (h.extractLsb 20 19 != 0b01#2)
    ∧ w.getLsbD 4 = (h.extractLsb 18 17 != 0b00#2) ∧ w.getLsbD 5 = (h.extractLsb 15 12 != 0xF#4)
    ∧ w.getLsbD 6 = (h.extractLsb 11 10 != 0b11#2) ∧ w.getLsbD 7 = (h.extractLsb 1 0 != 0b10#2)
    ∧ w.getLsbD 8 = modeOk p h ∧ w.getLsbD 9 = (w.getLsbD 0 && !w.getLsbD 1)
    ∧ (w.extractLsb 11 10).toNat = (if w.getLsbD 4 then 4 - (h.extractLsb 18 17).toNat else 0)
    ∧ w.getLsbD 12 = (h.extractLsb 7 6 == 0b11#2) ∧ w.extractLsb 31 13 = 0

/-- R160, R27 to R34, R156: DECODE of ARG0 completes, and the group-H registers hold, as numbers, the values of
R147 to R155 where they are defined and 0 elsewhere. With legal parameters nothing is cut to 32 bits (R10). BITRATE,
SRATE and FRAME_SIZE are said twice: as the model's functions give them, and by the header's own bits and the table
entries (R144, R145, R151). -/
def Obligations.DecodeWritesTheGeometry : Prop :=
  ∀ s : State, paramsLegal s.params = true →
    ∃ t, exec .decode s = .next t ∧ t.status.done = true ∧ busy t = false
      ∧ t.status.err = (if valid s.params s.arg0 then .none else .invalidHeader)
      ∧ regValue t .hdrRaw = s.arg0 ∧ regValue t .hdrInfo = (hdrInfoOf s.params s.arg0).toWord
      ∧ (valid s.params s.arg0 = true →
          (regValue t .srate).toNat = samplingRate s.params s.arg0
          ∧ (regValue t .srate).toNat = hzByFields s.params s.arg0 ∧ (regValue t .spf).toNat = spf s.arg0
          ∧ (regValue t .sideInfo).toNat = sideInfoSize s.arg0
          ∧ (regValue t .dataOffset).toNat = dataOffset s.arg0)
      ∧ (valid s.params s.arg0 = true → isFree s.arg0 = false →
          (regValue t .bitrate).toNat = bitrate s.params s.arg0
          ∧ (regValue t .bitrate).toNat = 1000 * kbpsByFields s.params s.arg0 (s.arg0.extractLsb 15 12).toNat
          ∧ (regValue t .frameSize).toNat = frameSize s.params s.arg0
          ∧ (regValue t .frameSize).toNat
            = frameBytesByFields s.arg0 (regValue t .bitrate).toNat (regValue t .srate).toNat)
      ∧ (valid s.params s.arg0 = false ∨ isFree s.arg0 = true →
          regValue t .bitrate = 0 ∧ regValue t .frameSize = 0)
      ∧ (valid s.params s.arg0 = false →
          regValue t .srate = 0 ∧ regValue t .spf = 0 ∧ regValue t .sideInfo = 0 ∧ regValue t .dataOffset = 0)

/-- R161, R63, R68: DECODE_MEM at an offset in bounds gives the group-H registers and the error of DECODE of the
four bytes there, the first in bits 31:24; past BUF_LEN it completes with BUFFER_BOUNDS and group H unchanged. -/
def Obligations.DecodeMemReadsBigEndian : Prop :=
  ∀ s : State,
    (s.arg0.toNat + 4 ≤ s.bufLen.toNat → ∃ t u h, exec .decodeMem s = .next t
      ∧ exec .decode { s with arg0 := h } = .next u ∧ (∀ r, r ≠ .arg0 → regValue t r = regValue u r)
      ∧ h.extractLsb 31 24 = s.buf.byte s.arg0.toNat ∧ h.extractLsb 23 16 = s.buf.byte (s.arg0.toNat + 1)
      ∧ h.extractLsb 15 8 = s.buf.byte (s.arg0.toNat + 2) ∧ h.extractLsb 7 0 = s.buf.byte (s.arg0.toNat + 3))
    ∧ (s.bufLen.toNat < s.arg0.toNat + 4 → ∃ t, exec .decodeMem s = .next t
      ∧ t.status.err = .bufferBounds ∧ ∀ r, r ≠ .status → regValue t r = regValue s r)

/-- R162, R35: COMPARE completes; COMPAT holds EQ, A_VALID and B_VALID; the error is INVALID_HEADER iff either
header is invalid. -/
def Obligations.CompareReportsCompatibility : Prop :=
  ∀ s : State, ∃ t, exec .compare s = .next t ∧ t.status.done = true
    ∧ (regValue t .compat).getLsbD 0 = ((s.arg0 ^^^ s.arg1) &&& 0x001E0CC3#32 == 0#32)
    ∧ (regValue t .compat).getLsbD 1 = valid s.params s.arg0
    ∧ (regValue t .compat).getLsbD 2 = valid s.params s.arg1 ∧ (regValue t .compat).extractLsb 31 3 = 0
    ∧ t.status.err = (if valid s.params s.arg0 && valid s.params s.arg1 then .none else .invalidHeader)

/-! ### Frame synchronisation -/

/-- R194, R193: the probe finds the first size from 4 to the bound that satisfies the condition and lands on a
valid header in the buffer, and fails iff there is none. For a valid header the bound is the frame size at bitrate
index 14, with the header's own version, layer, sampling rate and padding (R192), and the condition is R193's with
its divisor 48, 144 or 72, both on the header's own bits and the table entries. -/
def Obligations.ProbeFindsTheFirstSize : Prop :=
  ∀ (d : Input) (o : Nat) (h : Word), hdrAt d o = some h →
    (∀ size, probe d o = some size ↔
      4 ≤ size ∧ size ≤ maxFreeSize d.params h ∧ probeCond d.params h size = true
      ∧ isCandidate d (o + size) = true
      ∧ ∀ z, 4 ≤ z → z < size → ¬(probeCond d.params h z = true ∧ isCandidate d (o + z) = true))
    ∧ (probe d o = none ↔ ∀ z, 4 ≤ z → z ≤ maxFreeSize d.params h →
        ¬(probeCond d.params h z = true ∧ isCandidate d (o + z) = true))
    ∧ (valid d.params h = true →
      maxFreeSize d.params h
        = frameBytesByFields h (1000 * kbpsByFields d.params h 14) (hzByFields d.params h)
      ∧ ∀ z, probeCond d.params h z = true ↔
        if h.extractLsb 18 17 = 0b11#2 then
          z % 4 = 0 ∧ (z / 4 - (h.getLsbD 9).toNat) * hzByFields d.params h % 48 = 0
        else if h.extractLsb 18 17 = 0b10#2 ∨ h.extractLsb 20 19 = 0b11#2 then
          (z - (h.getLsbD 9).toNat) * hzByFields d.params h % 144 = 0
        else (z - (h.getLsbD 9).toNat) * hzByFields d.params h % 72 = 0)

/-- R212: PROBE completes with the size, or with 0 and the first error that applies; PROBE_SIZE holds the size
exactly. -/
def Obligations.ProbeCommandReports : Prop :=
  ∀ s : State, let d := inputOf s; let o := s.arg0.toNat
    ∃ t, exec .probe s = .next t ∧ t.status.done = true ∧ busy t = false
      ∧ (hdrAt d o = none → regValue t .probeSize = 0 ∧ t.status.err = .bufferBounds)
      ∧ ∀ h, hdrAt d o = some h →
          (valid s.params h = false → regValue t .probeSize = 0 ∧ t.status.err = .invalidHeader)
          ∧ (valid s.params h = true → isFree h = false → regValue t .probeSize = 0 ∧ t.status.err = .unsupported)
          ∧ (valid s.params h = true → isFree h = true →
              (∀ size, probe d o = some size → (regValue t .probeSize).toNat = size ∧ t.status.err = .none)
              ∧ (probe d o = none → regValue t .probeSize = 0 ∧ t.status.err = .freeProbeFailed))

/-- R197, R198: what a confirmation returns says where the chain of headers from `c` stops and why. `pos k` is
where header `k` is looked for. -/
def Obligations.ConfirmReportsTheChain : Prop :=
  ∀ (d : Input) (c : Nat), 1 ≤ d.params.pConfirm →
    ∃ pos : Nat → Nat, pos 0 = c ∧ (∀ k, k < (confirm d c).nacc → Accepted d c (pos k)) ∧
      match (confirm d c).reason with
      | .confirmed =>
        (confirm d c).ok = true ∧ (confirm d c).nacc = d.params.pConfirm ∧ Lands d pos (d.params.pConfirm - 1)
      | .outOfBuffer =>
        (confirm d c).ok = false ∧ (confirm d c).nacc < d.params.pConfirm ∧ Lands d pos (confirm d c).nacc
        ∧ d.len < pos (confirm d c).nacc + 4
      | .invalid =>
        (confirm d c).ok = false ∧ (confirm d c).nacc < d.params.pConfirm ∧ Lands d pos (confirm d c).nacc
        ∧ ∃ h, hdrAt d (pos (confirm d c).nacc) = some h ∧ valid d.params h = false
      | .incompatible =>
        (confirm d c).ok = false ∧ (confirm d c).nacc < d.params.pConfirm ∧ Lands d pos (confirm d c).nacc
        ∧ ∃ first h, hdrAt d c = some first ∧ hdrAt d (pos (confirm d c).nacc) = some h
          ∧ valid d.params h = true ∧ compat h first = false
      | .probeFailed =>
        (confirm d c).ok = false ∧ 1 ≤ (confirm d c).nacc ∧ (confirm d c).nacc < d.params.pConfirm
        ∧ Lands d pos ((confirm d c).nacc - 1)
        ∧ ∃ h, hdrAt d (pos ((confirm d c).nacc - 1)) = some h ∧ isFree h = true
          ∧ probe d (pos ((confirm d c).nacc - 1)) = none

/-- R197, D17: a candidate is confirmed iff P_CONFIRM headers from it on are each in the buffer, valid and
compatible with the first, and each but the last has a length that lands on the next. -/
def Obligations.ConfirmedIffTheChainHolds : Prop :=
  ∀ (d : Input) (c : Nat), 1 ≤ d.params.pConfirm →
    ((confirm d c).ok = true ↔ ∃ pos : Nat → Nat, pos 0 = c
      ∧ (∀ k, k < d.params.pConfirm → Accepted d c (pos k)) ∧ Lands d pos (d.params.pConfirm - 1))

/-- R210, R36: CONFIRM completes; CONF_RES holds OK, NACC and REASON of the confirmation, NACC exactly. -/
def Obligations.ConfirmCommandReports : Prop :=
  ∀ s : State, paramsLegal s.params = true → ∃ t, exec .confirm s = .next t ∧ t.status.done = true ∧ busy t = false
    ∧ let c := confirm (inputOf s) s.arg0.toNat
      (regValue t .confRes).getLsbD 0 = c.ok ∧ (regValue t .confRes).extractLsb 3 1 = 0
      ∧ ((regValue t .confRes).extractLsb 7 4).toNat = c.nacc
      ∧ (regValue t .confRes).extractLsb 11 8 = c.reason.code ∧ (regValue t .confRes).extractLsb 31 12 = 0
      ∧ t.status.err = (if c.ok then .none else .syncNotFound)

/-- R202: what SYNC's scan guarantees: it finds the first candidate at or after the start that is confirmed, and
counts the candidates rejected before it; or there is none, and it counts them all. -/
def Obligations.SyncFindsTheFirstConfirmedOffset : Prop :=
  ∀ (d : Input) (start : Nat),
    ((sync d start).found = true →
      start ≤ (sync d start).offset ∧ isCandidate d (sync d start).offset = true
      ∧ (confirm d (sync d start).offset).ok = true
      ∧ (∀ o, start ≤ o → o < (sync d start).offset → isCandidate d o = false ∨ (confirm d o).ok = false)
      ∧ (sync d start).rejects = candidatesIn d start (sync d start).offset)
    ∧ ((sync d start).found = false →
      (sync d start).offset = d.len
      ∧ (∀ o, start ≤ o → isCandidate d o = true → (confirm d o).ok = false)
      ∧ (sync d start).rejects = candidatesIn d start d.len)

/-- R201: the state machine Scanning, Confirming, Probing, Resyncing, run from the scan start, comes to the
completion state that stands for the result of `sync`, and stays there. That the state machine stands beside the one
completion step is the model's choice, which R15 and R201 allow (log entry 4). -/
def Obligations.SyncFsmReachesTheResultOfSync : Prop :=
  ∀ (d : Input) (start : Nat), ∃ n, ∀ m, n ≤ m → fsmRun d m (.scanning start 0) = (sync d start).toFsm

/-- R203: a run of P_CONFIRM valid non-free frames of one header, correctly spaced from offset `m` on, is found
at `m` exactly, when no candidate between the scan start and `m` is confirmable. -/
def Obligations.SyncFindsAStreamBehindJunk : Prop :=
  ∀ (d : Input) (start m : Nat) (h : Word), 1 ≤ d.params.pConfirm → start ≤ m →
    valid d.params h = true → isFree h = false →
    (∀ k, k < d.params.pConfirm → hdrAt d (m + k * frameSize d.params h) = some h) →
    (∀ o, start ≤ o → o < m → isCandidate d o = true → (confirm d o).ok = false) →
    (sync d start).found = true ∧ (sync d start).offset = m

/-- R211, R37, R38: SYNC completes; SYNC_OFFSET and SYNC_REJECTS hold the result exactly; never
more than BUF_LEN - 3 candidates are rejected (R206); the error is SYNC_NOT_FOUND iff no offset was found. -/
def Obligations.SyncCommandReports : Prop :=
  ∀ s : State, ∃ t, exec .sync s = .next t ∧ t.status.done = true ∧ busy t = false
    ∧ (regValue t .syncOffset).toNat = (sync (inputOf s) s.arg0.toNat).offset
    ∧ (regValue t .syncRejects).toNat = (sync (inputOf s) s.arg0.toNat).rejects
    ∧ (regValue t .syncRejects).toNat ≤ s.bufLen.toNat - 3
    ∧ t.status.err = (if (sync (inputOf s) s.arg0.toNat).found then .none else .syncNotFound)
    ∧ (s.bufLen.toNat < s.arg0.toNat + 4 →
        regValue t .syncOffset = s.bufLen ∧ regValue t .syncRejects = 0 ∧ t.status.err = .syncNotFound)

/-- R123, R26: a command's results depend only on the parameters, ARG0, ARG1, BUF_LEN, the buffer bytes below
BUF_LEN and, for SET_FC and SET_BC only, group X: two states that agree on these give the same error and the same
values in the registers the command writes. -/
def Obligations.ResultsDependOnlyOnTheInputs : Prop :=
  ∀ (i : Instr) (s s' t t' : State), s.params = s'.params → s.arg0 = s'.arg0 → s.arg1 = s'.arg1 →
    s.bufLen = s'.bufLen → (∀ a, a < s.bufLen.toNat → s.buf.byte a = s'.buf.byte a) →
    ((i = .setFc ∨ i = .setBc) → s.xing = s'.xing) →
    exec i s = .next t → exec i s' = .next t' →
    t.status.err = t'.status.err ∧ ((i = .decodeMem → t.status.err ≠ .bufferBounds) →
      ∀ r, r ≠ .status → writes i r = true → regValue t r = regValue t' r)

/-! ### Xing metadata -/

/-- R230, R90 to R92, R234, R235: XING of a whole block completes with NONE and every field at its place. -/
def Obligations.XingParsesAWholeBlock : Prop :=
  ∀ (s : State) (p0 : Nat) (tag m : Word), TagAt (inputOf s) s.arg0.toNat p0 tag → WholeBlock (inputOf s) p0 m →
    ∃ t, exec .xing s = .next t ∧ t.status.done = true ∧ busy t = false ∧ t.status.err = .none
      ∧ regValue t .xingInfo = (if tag = 0x58696E67#32 then 0x3#32 else 0x1#32)
      ∧ (regValue t .xingTagOff).toNat = p0 ∧ regValue t .xingMask = m
      ∧ regValue t .xingFrames = (if m.getLsbD 0 then memRead4 s.buf (p0 + 8) else 0)
      ∧ regValue t .xingBytes = (if m.getLsbD 1 then memRead4 s.buf (byteCountOffset p0 m) else 0)
      ∧ (regValue t .xingTocOff).toNat = (if m.getLsbD 2 then tocOffset p0 m else 0)
      ∧ regValue t .xingQuality = (if m.getLsbD 3 then memRead4 s.buf (qualityOffset p0 m) else 0)

/-- R230, R231, R264: a XING command that does not parse a whole block clears all of group X and completes with
the first error that applies: a header past BUF_LEN, an invalid header, no tag (NONE), a truncated block. -/
def Obligations.XingOtherwiseClearsGroupX : Prop :=
  ∀ s : State, let d := inputOf s; let f := s.arg0.toNat
    (¬∃ p0 tag m, TagAt d f p0 tag ∧ WholeBlock d p0 m) →
    ∃ t, exec .xing s = .next t ∧ (∀ r, r ≠ .status → writes .xing r = true → regValue t r = 0)
      ∧ (hdrAt d f = none → t.status.err = .bufferBounds)
      ∧ (∀ h, hdrAt d f = some h → valid s.params h = false → t.status.err = .invalidHeader)
      ∧ (∀ h, hdrAt d f = some h → valid s.params h = true → (¬∃ p0 tag, TagAt d f p0 tag) → t.status.err = .none)
      ∧ (∀ p0 tag, TagAt d f p0 tag → t.status.err = .truncatedMetadata)

/-- R240: SET_FC without a Xing block held completes with UNSUPPORTED and changes STATUS only. With one it completes
with NONE, XING_FRAMES becomes ARG1, MODIFIED is set if that changes the value and kept otherwise, and no other
register but STATUS changes. -/
def Obligations.SetFrameCount : Prop :=
  ∀ s : State,
    (s.xing.info.present = false → ∃ t, exec .setFc s = .next t ∧ t.status.err = .unsupported
      ∧ ∀ r, r ≠ .status → regValue t r = regValue s r)
    ∧ (s.xing.info.present = true → ∃ t, exec .setFc s = .next t ∧ t.status.done = true ∧ busy t = false
      ∧ t.status.err = .none ∧ regValue t .xingFrames = s.arg1
      ∧ (s.arg1 = regValue s .xingFrames → regValue t .xingInfo = regValue s .xingInfo)
      ∧ (s.arg1 ≠ regValue s .xingFrames → regValue t .xingInfo = regValue s .xingInfo ||| 0x4#32)
      ∧ ∀ r, r ≠ .status → r ≠ .xingFrames → r ≠ .xingInfo → regValue t r = regValue s r)

/-- R241: SET_BC without a Xing block held completes with UNSUPPORTED and changes STATUS only. With one it completes
with NONE, XING_BYTES becomes ARG1, MODIFIED is set if that changes the value and kept otherwise, and no other
register but STATUS changes. -/
def Obligations.SetByteCount : Prop :=
  ∀ s : State,
    (s.xing.info.present = false → ∃ t, exec .setBc s = .next t ∧ t.status.err = .unsupported
      ∧ ∀ r, r ≠ .status → regValue t r = regValue s r)
    ∧ (s.xing.info.present = true → ∃ t, exec .setBc s = .next t ∧ t.status.done = true ∧ busy t = false
      ∧ t.status.err = .none ∧ regValue t .xingBytes = s.arg1
      ∧ (s.arg1 = regValue s .xingBytes → regValue t .xingInfo = regValue s .xingInfo)
      ∧ (s.arg1 ≠ regValue s .xingBytes → regValue t .xingInfo = regValue s .xingInfo ||| 0x4#32)
      ∧ ∀ r, r ≠ .status → r ≠ .xingBytes → r ≠ .xingInfo → regValue t r = regValue s r)

/-- R242, D24: PRESENT, IS_VBR, the tag offset, the mask, the TOC offset and quality change, and MODIFIED
clears, only when the engine completes a XING command or at a reset. -/
def Obligations.XingDataChangesOnlyByXingOrReset : Prop :=
  ∀ s t : State, step s = .next t → nextTurn s ≠ .reset →
    ¬(nextTurn s = .engine ∧ s.pending = some (encode .xing)) →
    t.xing.info.present = s.xing.info.present ∧ t.xing.info.isVbr = s.xing.info.isVbr
    ∧ t.xing.tagOff = s.xing.tagOff ∧ t.xing.mask = s.xing.mask ∧ t.xing.tocOff = s.xing.tocOff
    ∧ t.xing.quality = s.xing.quality ∧ (s.xing.info.modified = true → t.xing.info.modified = true)

/-! ### The whole machine -/

/-- The invariant that EveryStepKeepsTheInvariant is about holds at reset (R20, R290). -/
def Obligations.InvariantAtReset : Prop := Inv State.reset

/-- Every step keeps the invariant: the buffer's canonical form, BUF_LEN <= BUF_CAP (D10), BUSY and DONE never
both 1 (R22), ERR = 0 while busy (R22), no reserved code (R262), group H current for HDR_RAW (R159), group X zero
without a block (R231), CONF_RES and PROBE_SIZE as R36 and R194 say. -/
def Obligations.EveryStepKeepsTheInvariant : Prop := ∀ s t : State, Inv s → step s = .next t → Inv t

/-- R127, R260: no command stops the machine. Where the turns to come keep the host's duties (R67, R73), a step
answers a next state whose turns keep them again; so a run under such a host never stops. -/
def Obligations.DutifulHostRunsSafely : Prop :=
  (∀ s : State, dutiful s.params (busy s) s.agenda = true →
    ∃ t, step s = .next t ∧ dutiful t.params (busy t) t.agenda = true)
  ∧ ∀ s : State, dutiful s.params (busy s) s.agenda = true → SafeRun s

/-- The model's own (log entry 5): in canonical form, buffers that agree at every offset are equal. -/
def Obligations.EqualBuffersAreEqualData : Prop :=
  ∀ m m' : Memory, m.wf → m'.wf → (∀ a, m.get a = m'.get a) → m = m'
end

