-- ==== Sys2Proof/Laws/Decode.lean ====
section
/-! SUPPORT. The opcode map: no word belongs to two rows, and the decoder looks a command up in it. -/

namespace Sys2Proof

/-- Every row fixes all 32 bits (R101: "match the word exactly"). -/
theorem opcodeTable_masks : ∀ r ∈ opcodeTable, r.mask = 0xFFFFFFFF := by decide

/-- No two rows match one word. -/
theorem opcodeTable_disjoint : opcodeTable.Pairwise fun r r' => r.pattern ≠ r'.pattern := by decide

/-- Every row's pattern is its command's encoding. -/
theorem opcodeTable_encode : ∀ r ∈ opcodeTable, r.pattern = encode r.command := by decide

/-- A row matches exactly its command's word. -/
theorem matchesWord_iff {r : OpcodeRow} (hr : r ∈ opcodeTable) (w : Word) :
    r.matchesWord w = true ↔ w = encode r.command := by
  have hm : w &&& 0xFFFFFFFF#32 = w := by
    rw [show (0xFFFFFFFF#32) = BitVec.allOnes 32 by decide, BitVec.and_allOnes]
  simp [OpcodeRow.matchesWord, opcodeTable_masks r hr, ← opcodeTable_encode r hr, hm]

/-- Every command has a row. -/
theorem exists_row (i : Instr) : ∃ r ∈ opcodeTable, r.command = i := by cases i <;> decide

end Sys2Proof
end

