-- ==== Sys2Proof/Laws/Memory.lean ====
section
/-! SUPPORT. The buffer: a read after a write, and the canonical form is kept. -/

namespace Sys2Proof.Machine

@[simp] theorem Memory.get_nil (a : Nat) : Memory.get [] a = none := rfl

/-- The byte just written is the byte read. -/
theorem Memory.get_put_same (m : Memory) (a : Nat) (b : Byte) : (m.put a b).get a = some b := by
  induction m with
  | nil => simp [Memory.put, Memory.get]
  | cons c m ih =>
    obtain ⟨c, x⟩ := c
    simp only [Memory.put]
    split
    · simp [Memory.get]
    · split
      · simp [Memory.get]
      · next h => simp [Memory.get, ih, Ne.symm h]

/-- A write leaves every other offset alone. -/
theorem Memory.get_put_other (m : Memory) {a c : Nat} (b : Byte) (h : c ≠ a) : (m.put a b).get c = m.get c := by
  induction m with
  | nil => simp [Memory.put, Memory.get, Ne.symm h]
  | cons e m ih =>
    obtain ⟨e, x⟩ := e
    simp only [Memory.put]
    split
    · simp [Memory.get, Ne.symm h]
    · split
      · next he => subst he; simp [Memory.get, Ne.symm h]
      · simp [Memory.get, ih]

theorem Memory.byte_put_same (m : Memory) (a : Nat) (b : Byte) : (m.put a b).byte a = b := by
  simp [Memory.byte, Memory.get_put_same]

theorem Memory.byte_put_other (m : Memory) {a c : Nat} (b : Byte) (h : c ≠ a) : (m.put a b).byte c = m.byte c := by
  simp [Memory.byte, Memory.get_put_other m b h]

/-- The entries after a write are the one written and entries from before. -/
theorem Memory.mem_put {m : Memory} {a : Nat} {b : Byte} {e : Host.Cell} (h : e ∈ m.put a b) :
    e = (a, b) ∨ e ∈ m := by
  induction m with
  | nil => simpa [Memory.put] using h
  | cons c m ih =>
    obtain ⟨c, x⟩ := c
    simp only [Memory.put] at h
    split at h
    · simpa using h
    · split at h
      · rcases List.mem_cons.1 h with h | h
        · exact .inl h
        · exact .inr (List.mem_cons_of_mem _ h)
      · rcases List.mem_cons.1 h with h | h
        · exact .inr (h ▸ List.mem_cons_self)
        · exact (ih h).imp id (List.mem_cons_of_mem _)

/-- A write keeps the canonical form. -/
theorem Memory.put_wf {m : Memory} (h : m.wf) (a : Nat) (b : Byte) : (m.put a b).wf := by
  induction m with
  | nil => simp [Memory.put, Memory.wf]
  | cons c m ih =>
    obtain ⟨c, x⟩ := c
    obtain ⟨hc, hm⟩ := List.pairwise_cons.1 h
    simp only [Memory.put]
    split
    · next hlt =>
      refine List.pairwise_cons.2 ⟨fun e he => ?_, h⟩
      rcases List.mem_cons.1 he with he | he
      · exact he ▸ hlt
      · exact hlt.trans (hc e he)
    · split
      · next he => exact List.pairwise_cons.2 ⟨fun e h' => he ▸ hc e h', hm⟩
      · refine List.pairwise_cons.2 ⟨fun e he => ?_, ih hm⟩
        rcases Memory.mem_put he with he | he
        · subst he; simp only; omega
        · exact hc e he

/-- An offset below every listed one is not listed. -/
theorem Memory.get_eq_none_of_lt {m : Memory} {a : Nat} (h : ∀ e ∈ m, a < e.1) : m.get a = none := by
  induction m with
  | nil => rfl
  | cons c m ih =>
    obtain ⟨c, x⟩ := c
    have hc : a < c := h _ List.mem_cons_self
    simp [Memory.get, show c ≠ a by omega, ih fun e he => h e (List.mem_cons_of_mem _ he)]

end Sys2Proof.Machine
end

