-- ==== Sys2Proof/Laws/State.lean ====
section
/-! SUPPORT. One lemma per field for each named update of the state: completion, issue and reset. -/

namespace Sys2Proof.Machine

@[simp] theorem complete_params (e : ErrCode) (s : State) : (complete e s).params = s.params := rfl
@[simp] theorem complete_status (e : ErrCode) (s : State) : (complete e s).status = { s.status with done := true, err := e } := rfl
@[simp] theorem complete_ctrl (e : ErrCode) (s : State) : (complete e s).ctrl = s.ctrl := rfl
@[simp] theorem complete_arg0 (e : ErrCode) (s : State) : (complete e s).arg0 = s.arg0 := rfl
@[simp] theorem complete_arg1 (e : ErrCode) (s : State) : (complete e s).arg1 = s.arg1 := rfl
@[simp] theorem complete_buf_len (e : ErrCode) (s : State) : (complete e s).bufLen = s.bufLen := rfl
@[simp] theorem complete_hdr (e : ErrCode) (s : State) : (complete e s).hdr = s.hdr := rfl
@[simp] theorem complete_compat (e : ErrCode) (s : State) : (complete e s).compat = s.compat := rfl
@[simp] theorem complete_conf_res (e : ErrCode) (s : State) : (complete e s).confRes = s.confRes := rfl
@[simp] theorem complete_sync (e : ErrCode) (s : State) : (complete e s).sync = s.sync := rfl
@[simp] theorem complete_probe_size (e : ErrCode) (s : State) : (complete e s).probeSize = s.probeSize := rfl
@[simp] theorem complete_xing (e : ErrCode) (s : State) : (complete e s).xing = s.xing := rfl
@[simp] theorem complete_pending (e : ErrCode) (s : State) : (complete e s).pending = none := rfl
@[simp] theorem complete_buf (e : ErrCode) (s : State) : (complete e s).buf = s.buf := rfl
@[simp] theorem complete_agenda (e : ErrCode) (s : State) : (complete e s).agenda = s.agenda := rfl
@[simp] theorem complete_read_data (e : ErrCode) (s : State) : (complete e s).readData = s.readData := rfl
@[simp] theorem complete_free_count (e : ErrCode) (s : State) : (complete e s).freeCount = s.freeCount := rfl

@[simp] theorem issue_params (w : Word) (s : State) : (issue w s).params = s.params := rfl
@[simp] theorem issue_status (w : Word) (s : State) : (issue w s).status = { done := false, err := .none, lastOp := w.extractLsb 3 0 } := rfl
@[simp] theorem issue_ctrl (w : Word) (s : State) : (issue w s).ctrl = s.ctrl := rfl
@[simp] theorem issue_arg0 (w : Word) (s : State) : (issue w s).arg0 = s.arg0 := rfl
@[simp] theorem issue_arg1 (w : Word) (s : State) : (issue w s).arg1 = s.arg1 := rfl
@[simp] theorem issue_buf_len (w : Word) (s : State) : (issue w s).bufLen = s.bufLen := rfl
@[simp] theorem issue_hdr (w : Word) (s : State) : (issue w s).hdr = s.hdr := rfl
@[simp] theorem issue_compat (w : Word) (s : State) : (issue w s).compat = s.compat := rfl
@[simp] theorem issue_conf_res (w : Word) (s : State) : (issue w s).confRes = s.confRes := rfl
@[simp] theorem issue_sync (w : Word) (s : State) : (issue w s).sync = s.sync := rfl
@[simp] theorem issue_probe_size (w : Word) (s : State) : (issue w s).probeSize = s.probeSize := rfl
@[simp] theorem issue_xing (w : Word) (s : State) : (issue w s).xing = s.xing := rfl
@[simp] theorem issue_pending (w : Word) (s : State) : (issue w s).pending = some w := rfl
@[simp] theorem issue_buf (w : Word) (s : State) : (issue w s).buf = s.buf := rfl
@[simp] theorem issue_agenda (w : Word) (s : State) : (issue w s).agenda = s.agenda := rfl
@[simp] theorem issue_read_data (w : Word) (s : State) : (issue w s).readData = s.readData := rfl
@[simp] theorem issue_free_count (w : Word) (s : State) : (issue w s).freeCount = s.freeCount := rfl

@[simp] theorem resetEvent_params (s : State) : (resetEvent s).params = s.params := rfl
@[simp] theorem resetEvent_status (s : State) : (resetEvent s).status = .zero := rfl
@[simp] theorem resetEvent_ctrl (s : State) : (resetEvent s).ctrl = .zero := rfl
@[simp] theorem resetEvent_arg0 (s : State) : (resetEvent s).arg0 = 0 := rfl
@[simp] theorem resetEvent_arg1 (s : State) : (resetEvent s).arg1 = 0 := rfl
@[simp] theorem resetEvent_buf_len (s : State) : (resetEvent s).bufLen = 0 := rfl
@[simp] theorem resetEvent_hdr (s : State) : (resetEvent s).hdr = .zero := rfl
@[simp] theorem resetEvent_compat (s : State) : (resetEvent s).compat = .zero := rfl
@[simp] theorem resetEvent_conf_res (s : State) : (resetEvent s).confRes = .zero := rfl
@[simp] theorem resetEvent_sync (s : State) : (resetEvent s).sync = .zero := rfl
@[simp] theorem resetEvent_probe_size (s : State) : (resetEvent s).probeSize = 0 := rfl
@[simp] theorem resetEvent_xing (s : State) : (resetEvent s).xing = .zero := rfl
@[simp] theorem resetEvent_pending (s : State) : (resetEvent s).pending = none := rfl
@[simp] theorem resetEvent_buf (s : State) : (resetEvent s).buf = s.buf := rfl
@[simp] theorem resetEvent_agenda (s : State) : (resetEvent s).agenda = s.agenda := rfl
@[simp] theorem resetEvent_read_data (s : State) : (resetEvent s).readData = s.readData := rfl
@[simp] theorem resetEvent_free_count (s : State) : (resetEvent s).freeCount = s.freeCount := rfl

@[simp] theorem busy_complete (e : ErrCode) (s : State) : busy (complete e s) = false := rfl
@[simp] theorem busy_issue (w : Word) (s : State) : busy (issue w s) = true := rfl
@[simp] theorem busy_resetEvent (s : State) : busy (resetEvent s) = false := rfl
@[simp] theorem irq_complete (e : ErrCode) (s : State) : irq (complete e s) = s.ctrl.ie := by simp [irq]
@[simp] theorem irq_issue (w : Word) (s : State) : irq (issue w s) = false := rfl

@[simp] theorem Status.toWord_zero : Status.zero.toWord false = 0 := by decide
@[simp] theorem Ctrl.toWord_zero : Ctrl.zero.toWord = 0 := by decide
@[simp] theorem HdrInfo.toWord_zero : HdrInfo.zero.toWord = 0 := by decide
@[simp] theorem Compat.toWord_zero : Compat.zero.toWord = 0 := by decide
@[simp] theorem ConfRes.toWord_zero : ConfRes.zero.toWord = 0 := by decide
@[simp] theorem XingInfo.toWord_zero : XingInfo.zero.toWord = 0 := by decide

/-- A completion shows in no register but STATUS. -/
theorem regValue_complete (e : ErrCode) (s : State) {r : Reg} (h : r ≠ .status) :
    regValue (complete e s) r = regValue s r := by
  cases r <;> first | rfl | exact absurd rfl h

/-- An issue shows in no register but STATUS. -/
theorem regValue_issue (w : Word) (s : State) {r : Reg} (h : r ≠ .status) :
    regValue (issue w s) r = regValue s r := by
  cases r <;> first | rfl | exact absurd rfl h

/-- The turns to come, what the host has read and the draws show in no register. -/
theorem regValue_host (s : State) (r : Reg) (ag : List Turn) (v : Word) (n : Nat) (b : Memory) :
    regValue { s with agenda := ag, readData := v, freeCount := n, buf := b } r = regValue s r := by
  cases r <;> rfl

end Sys2Proof.Machine
end

