-- ==== Sys2Proof/Laws/Ops.lean ====
section
/-! SUPPORT. What each shared operation can do, said once: bounded reads, register offsets, host steps. -/

namespace Sys2Proof.Machine

/-- A bounded read gives the four bytes exactly when they lie inside the buffer. -/
theorem readWord_eq_some {d : Input} {a : Nat} {w : Word} :
    readWord d a = some w ↔ a + 4 ≤ d.len ∧ memRead4 d.buf a = w := by
  simp [readWord, inBuf]

theorem readWord_eq_none {d : Input} {a : Nat} : readWord d a = none ↔ d.len < a + 4 := by
  simp [readWord, inBuf]

theorem hdrAt_eq_some {d : Input} {a : Nat} {w : Word} :
    hdrAt d a = some w ↔ a + 4 ≤ d.len ∧ memRead4 d.buf a = w := readWord_eq_some

theorem hdrAt_eq_none {d : Input} {a : Nat} : hdrAt d a = none ↔ d.len < a + 4 := readWord_eq_none

/-- Bounded reads see only the bytes below BUF_LEN. -/
theorem readWord_congr {d d' : Input} (hl : d.len = d'.len) (hb : ∀ a, a < d.len → d.buf.byte a = d'.buf.byte a)
    (a : Nat) : readWord d a = readWord d' a := by
  simp only [readWord, inBuf, ← hl, decide_eq_true_eq]
  split
  · next h => simp only [memRead4, hb a (by omega), hb (a + 1) (by omega), hb (a + 2) (by omega), hb (a + 3) (by omega)]
  · rfl

theorem isCandidate_iff {d : Input} {o : Nat} :
    isCandidate d o = true ↔ ∃ h, hdrAt d o = some h ∧ valid d.params h = true := by
  unfold isCandidate
  split <;> simp_all

/-- BUF_LEN is a 32-bit register. -/
theorem inputOf_len_lt (s : State) : (inputOf s).len < 2 ^ 32 := s.bufLen.isLt

/-- Each register is found at its own offset (R20). -/
@[simp] theorem Reg.ofOffset_offset (r : Reg) : Reg.ofOffset r.offset = some r := by cases r <;> rfl

/-- Every register's offset is an aligned offset of the window. -/
theorem Reg.offset_inside (r : Reg) : r.offset % 4 = 0 ∧ r.offset < registerWindow := by cases r <;> decide

/-- No register lies past XING_QUALITY (R47). -/
theorem Reg.ofOffset_unmapped {o : Nat} (h : 0x68 ≤ o) : Reg.ofOffset o = none := by
  have hlt : ∀ r : Reg, r.offset < 0x68 := by intro r; cases r <;> decide
  refine List.find?_eq_none.2 fun r _ => ?_
  have := hlt r
  simp only [beq_iff_eq]
  omega

/-- What `readReg` can change: what the host has read, and the count of draws. -/
theorem readReg_frame (o : Nat) (s : State) :
    ∃ v n, readReg o s = { s with readData := v, freeCount := n } := by
  unfold readReg
  split
  · split
    · exact ⟨_, _, rfl⟩
    · exact ⟨_, s.freeCount, rfl⟩
  · exact ⟨0, s.freeCount, rfl⟩

/-- What `writeRegIdle` can change: what is pending, STATUS, CTRL, the operands and BUF_LEN. -/
theorem writeRegIdle_frame (r : Reg) (v : Word) (s : State) : ∃ p st c a b l,
    writeRegIdle r v s = { s with pending := p, status := st, ctrl := c, arg0 := a, arg1 := b, bufLen := l } := by
  unfold writeRegIdle
  split <;> first
    | exact ⟨_, _, _, _, _, _, rfl⟩
    | (split <;> exact ⟨_, _, _, _, _, _, rfl⟩)

theorem writeReg_frame (o : Nat) (v : Word) (s : State) : ∃ p st c a b l,
    writeReg o v s = { s with pending := p, status := st, ctrl := c, arg0 := a, arg1 := b, bufLen := l } := by
  unfold writeReg
  split
  · exact ⟨_, _, _, _, _, _, rfl⟩
  · split
    · exact writeRegIdle_frame ..
    · exact ⟨_, _, _, _, _, _, rfl⟩

/-- A write while busy is lost (R121). -/
theorem writeReg_busy {s : State} (h : busy s = true) (o : Nat) (v : Word) : writeReg o v s = s := by
  simp [writeReg, h]

/-- A register access goes on exactly when it has the form of R67 and lies in the window. -/
theorem registerAccess_eq_next {o w : Nat} {n t : State} :
    registerAccess o w n = .next t ↔ w = 32 ∧ o % 4 = 0 ∧ o < registerWindow ∧ n = t := by
  unfold registerAccess wordAccess
  split
  · next h => simp at h; simp; intro hw ho; exact absurd ho (h.resolve_left (not_not.2 hw))
  · split
    · next h h' => simp; omega
    · next h h' => simp at h; simp [h]; omega

/-- An access inside the interface goes on. -/
theorem registerAccess_inside {o : Nat} (n : State) (h : o % 4 = 0) (h' : o < 256) :
    registerAccess o 32 n = .next n := registerAccess_eq_next.2 ⟨rfl, h, h', rfl⟩

/-- A buffer write goes on exactly while idle and inside the buffer. -/
theorem bufferWrite_eq_next {o : Nat} {b : Byte} {s t : State} :
    bufferWrite o b s = .next t ↔ busy s = false ∧ o < s.params.bufCap ∧ { s with buf := s.buf.put o b } = t := by
  unfold bufferWrite
  split
  · simp_all
  · split
    · simp; omega
    · simp_all

/-- Everything a step of the host can do. -/
theorem hostStep_cases {h : HostStep} {s t : State} (ht : hostStep h s = .next t) :
    (∃ o, h = .read o 32 ∧ o % 4 = 0 ∧ o < registerWindow ∧ t = readReg o s)
    ∨ (∃ o v, h = .write o 32 v ∧ o % 4 = 0 ∧ o < registerWindow ∧ t = writeReg o v s)
    ∨ ∃ o b, h = .bufWrite o b ∧ busy s = false ∧ o < s.params.bufCap ∧ t = { s with buf := s.buf.put o b } := by
  cases h with
  | read o w =>
    obtain ⟨rfl, h1, h2, h3⟩ := registerAccess_eq_next.1 ht
    exact .inl ⟨o, rfl, h1, h2, h3.symm⟩
  | write o w v =>
    obtain ⟨rfl, h1, h2, h3⟩ := registerAccess_eq_next.1 ht
    exact .inr (.inl ⟨o, v, rfl, h1, h2, h3.symm⟩)
  | bufWrite o b =>
    obtain ⟨h1, h2, h3⟩ := bufferWrite_eq_next.1 ht
    exact .inr (.inr ⟨o, b, rfl, h1, h2, h3.symm⟩)

end Sys2Proof.Machine
end

