-- ==== Sys2Proof/Laws/FrameSync.lean ====
section
/-! SUPPORT. Lemmas for the scan, the probe and the confirmation: what leaving the buffer means for later offsets,
frame lengths, the reference header, counting candidates. -/

namespace Sys2Proof.Machine

/-- Once a header leaves the buffer, every later one does. -/
theorem hdrAt_none_later {d : Input} {a b : Nat} (h : hdrAt d a = none) (hab : a ≤ b) : hdrAt d b = none := by
  have := hdrAt_eq_none.1 h
  exact hdrAt_eq_none.2 (by omega)

/-- No offset out of bounds is a candidate (R191). -/
theorem isCandidate_of_none {d : Input} {a : Nat} (h : hdrAt d a = none) : isCandidate d a = false := by
  simp [isCandidate, h]

/-- In bounds, an offset is a candidate iff its header is valid (R191). -/
theorem isCandidate_of_some {d : Input} {a : Nat} {h : Word} (hh : hdrAt d a = some h) :
    isCandidate d a = valid d.params h := by
  simp [isCandidate, hh]

/-- A frame has no length exactly when it is free and its probe fails (R196). -/
theorem frameLen_eq_none {d : Input} {a : Nat} {h : Word} :
    frameLen d a h = none ↔ isFree h = true ∧ probe d a = none := by
  unfold frameLen
  split <;> simp_all

/-- The first header is its own reference (R197). -/
theorem confirmFrom_first {d : Input} {c : Nat} {h : Word} (hh : hdrAt d c = some h) (more k : Nat) :
    confirmFrom d more k c none = confirmFrom d more k c (some h) := by
  cases more <;> simp [confirmFrom, hh]

/-- The candidates of a range, the first offset apart. -/
theorem candidatesIn_step {d : Input} {a b : Nat} (h : a < b) :
    candidatesIn d a b = (isCandidate d a).toNat + candidatesIn d (a + 1) b := by
  unfold candidatesIn
  rw [show b - a = b - (a + 1) + 1 by omega, List.range'_succ, List.filter_cons]
  cases isCandidate d a <;> simp [Nat.add_comm]

theorem candidatesIn_self {d : Input} {a b : Nat} (h : b ≤ a) : candidatesIn d a b = 0 := by
  simp [candidatesIn, Nat.sub_eq_zero_of_le h]

theorem candidatesIn_of_none {d : Input} {a : Nat} (h : hdrAt d a = none) : candidatesIn d a d.len = 0 := by
  unfold candidatesIn
  rw [List.length_eq_zero_iff, List.filter_eq_nil_iff]
  intro x hx
  rw [List.mem_range'_1] at hx
  simp [isCandidate_of_none (hdrAt_none_later h hx.1)]

end Sys2Proof.Machine
end

