-- ==== Sys2Proof/Laws/PerInstr.lean ====
section
/-! SUPPORT. What holds of every command as syntax, one lemma per constructor: its word passes the two checks of
R102. -/

namespace Sys2Proof.Laws.EncodeLegal

/-- The word of a command has OP in 0x0..0x9 and zero reserved bits (R101, R102). -/
def Statement (i : Instr) : Prop := legalCommandWord (encode i) = true

theorem nop : Statement .nop := by unfold Statement; decide
theorem decode : Statement .decode := by unfold Statement; decide
theorem decodeMem : Statement .decodeMem := by unfold Statement; decide
theorem compare : Statement .compare := by unfold Statement; decide
theorem confirm : Statement .confirm := by unfold Statement; decide
theorem sync : Statement .sync := by unfold Statement; decide
theorem probe : Statement .probe := by unfold Statement; decide
theorem xing : Statement .xing := by unfold Statement; decide
theorem setFc : Statement .setFc := by unfold Statement; decide
theorem setBc : Statement .setBc := by unfold Statement; decide

end Sys2Proof.Laws.EncodeLegal
end

