-- ==== Sys2Proof/Laws/Step.lean ====
section
/-! SUPPORT. What a meaning, the engine and a step can do, said once. -/

namespace Sys2Proof.Machine

/-- Every meaning completes its command: it sets STATUS and may write result groups, nothing else. -/
theorem exec_frame {i : Instr} {s t : State} (h : exec i s = .next t) :
    ∃ e g c f y z x, t = complete e { s with
      hdr := g, compat := c, confRes := f, sync := y, probeSize := z, xing := x } := by
  cases i <;>
    simp only [exec, execNop, execDecode, execDecodeMem, execCompare, execConfirm, execSync, execProbe, execXing,
      execSetFc, execSetBc, decodeHeader] at h <;>
    first
    | (cases h; exact ⟨_, _, _, _, _, _, _, rfl⟩)
    | (split at h <;> cases h <;> exact ⟨_, _, _, _, _, _, _, rfl⟩)

/-- No meaning looks at the turns to come, at what the host has read or at the count of draws. -/
theorem exec_host_fields {i : Instr} {s t : State} (h : exec i s = .next t) (ag : List Turn) (v : Word) (n : Nat) :
    exec i { s with agenda := ag, readData := v, freeCount := n }
      = .next { t with agenda := ag, readData := v, freeCount := n } := by
  cases i <;>
    simp only [exec, execNop, execDecode, execDecodeMem, execCompare, execConfirm, execSync, execProbe, execXing,
      execSetFc, execSetBc, decodeHeader, inputOf, offsetOperand] at h ⊢ <;>
    first
    | (cases h; rfl)
    | (split at h <;> cases h <;> simp_all <;> rfl)

/-- The turn a step takes, with the rest of the agenda left. -/
theorem step_eq (s : State) : step s = takeTurn (s.agenda.headD .engine) { s with agenda := s.agenda.tail } := by
  unfold step
  cases h : s.agenda with
  | nil =>
    have : { s with agenda := [] } = s := by cases s; simp_all
    simp [takeTurn, this]
  | cons t rest => simp

/-- Everything the engine's turn can do: nothing when idle; else the pending command's meaning, or the completion
of an illegal word. -/
theorem engineTurn_cases {s t : State} (h : engineTurn s = .next t) :
    (s.pending = none ∧ t = s)
    ∨ (∃ w i, s.pending = some w ∧ decodeWord w = .ok i ∧ exec i s = .next t)
    ∨ ∃ w e, s.pending = some w ∧ decodeWord w = .error e ∧ t = illegalCommand s := by
  unfold engineTurn fetchCommand at h
  split at h
  · next hp => cases h; exact .inl ⟨hp, rfl⟩
  · next w hp =>
    split at h
    · next i hd => exact .inr (.inl ⟨w, i, hp, hd, h⟩)
    · next e hd => cases h; exact .inr (.inr ⟨w, e, hp, hd, rfl⟩)

/-- Everything a step can do: the engine's turn, a step of the host, or a reset. -/
theorem step_cases {s t : State} (h : step s = .next t) :
    (s.agenda.headD .engine = .engine ∧ engineTurn { s with agenda := s.agenda.tail } = .next t)
    ∨ (∃ m, s.agenda.headD .engine = .host m ∧ hostStep m { s with agenda := s.agenda.tail } = .next t)
    ∨ (s.agenda.headD .engine = .reset ∧ t = resetEvent { s with agenda := s.agenda.tail }) := by
  rw [step_eq] at h
  cases hn : s.agenda.headD .engine with
  | engine => rw [hn] at h; exact .inl ⟨rfl, h⟩
  | host m => rw [hn] at h; exact .inr (.inl ⟨m, rfl, h⟩)
  | reset => rw [hn] at h; cases h; exact .inr (.inr ⟨rfl, rfl⟩)

/-- A run whose first step goes on is the run from there. -/
theorem run_succ {s t : State} (h : step s = .next t) (k : Nat) : run (k + 1) s = run k t := by
  simp [run, h]

/-- `run` is the host's run of the machine. -/
theorem run_eq_core_run (k : Nat) (s : State) : run k s = core.run k s := by
  induction k generalizing s with
  | zero => rfl
  | succ k ih =>
    have hs : core.step s = step s := rfl
    simp only [run, Host.Core.run, hs]
    cases step s <;> first | exact ih _ | rfl

end Sys2Proof.Machine
end

