-- ==== Sys2Proof/Tests/Slice0.lean ====
section
/-! SUPPORT. Tests: well-formedness, decoding, one step of each command and of each host move against the vectors
of spec/95_test_vectors.md, and for each obligation with hypotheses a witness that meets them. -/

namespace Sys2Proof.Tests

open Machine

/-! ### Helpers -/

/-- Bytes from an offset on. -/
def bytesAt : Nat → List Byte → Memory
  | _, [] => []
  | o, b :: bs => (o, b) :: bytesAt (o + 1) bs

/-- A word at an offset, its first byte most significant. -/
def wordAt (o : Nat) (w : Word) : Memory :=
  bytesAt o [w.extractLsb 31 24, w.extractLsb 23 16, w.extractLsb 15 8, w.extractLsb 7 0]

/-- `n` zero bytes from an offset on. -/
def zerosAt (o n : Nat) : Memory := bytesAt o (List.replicate n 0)

/-- The state after reset with a buffer and operands written. -/
def st (buf : Memory) (len a0 a1 : Word) : State :=
  { State.reset with buf := buf, bufLen := len, arg0 := a0, arg1 := a1 }

/-- A state with a command issued. -/
def issued (w : Word) (s : State) : State := issue w s

/-- A state whose next turn is a host step. -/
def hosting (h : HostStep) (s : State) : State := { s with agenda := [.host h] }

/-- What a register holds after a command is issued and completed. -/
def after (i : Instr) (s : State) (r : Reg) : Option Word :=
  match exec i (issue (encode i) s) with
  | .next t => some (regValue t r)
  | .fault _ => none
  | .refused _ => none

/-- What a register holds after one step. -/
def afterStep (s : State) (r : Reg) : Option Word :=
  match step s with
  | .next t => some (regValue t r)
  | .fault _ => none
  | .refused _ => none

/-- What the host has read, and how many free values have been drawn, after one step. -/
def readAfter (s : State) : Option (Word × Nat) :=
  match step s with
  | .next t => some (t.readData, t.freeCount)
  | .fault _ => none
  | .refused _ => none

/-- `irq` after one step. -/
def irqAfter (s : State) : Option Bool :=
  match step s with
  | .next t => some (irq t)
  | .fault _ => none
  | .refused _ => none

/-! ### Well-formedness: an ill-formed term for each check -/

theorem test_reserved_bit_refused : legalCommandWord 0x00000011 = false ∧ reservedBitsZero 0x00000011 = false := by
  decide
theorem test_unassigned_opcode_refused : legalCommandWord 0x0000000A = false ∧ opcodeAssigned 0x0000000A = false := by
  decide
theorem test_legal_word_accepted : legalCommandWord 0x00000009 = true := by decide
theorem test_narrow_access_refused : (HostStep.read 0x04 16).wellFormed paramsDefault = false := by decide
theorem test_misaligned_access_refused : (HostStep.write 0x06 32 0).wellFormed paramsDefault = false := by decide
theorem test_offset_past_window_refused : (HostStep.read 0x100 32).wellFormed paramsDefault = false := by decide
theorem test_buffer_offset_past_capacity_refused :
    (HostStep.bufWrite 4096 0).wellFormed { paramsDefault with bufCap := 4096 } = false := by decide
theorem test_well_formed_steps_accepted :
    (HostStep.read 0xFC 32).wellFormed paramsDefault = true
    ∧ (HostStep.bufWrite 4095 0).wellFormed { paramsDefault with bufCap := 4096 } = true := by decide
theorem test_parameters_refused :
    paramsLegal { paramsDefault with pConfirm := 1 } = false ∧ paramsLegal { paramsDefault with pConfirm := 16 } = false
    ∧ paramsLegal { paramsDefault with pSyncBits := 13 } = false
    ∧ paramsLegal { paramsDefault with addrW := 16, bufCap := 65536 } = false := by decide
theorem test_default_parameters_legal : paramsLegal paramsDefault = true := by decide

/-! ### Decoding: words written out from R101, OP in bits 3:0 -/

theorem test_decode_nop : decodeWord 0b00000000000000000000000000000000#32 = .ok .nop := by decide
theorem test_decode_decode : decodeWord 0b00000000000000000000000000000001#32 = .ok .decode := by decide
theorem test_decode_decodeMem : decodeWord 0b00000000000000000000000000000010#32 = .ok .decodeMem := by decide
theorem test_decode_compare : decodeWord 0b00000000000000000000000000000011#32 = .ok .compare := by decide
theorem test_decode_confirm : decodeWord 0b00000000000000000000000000000100#32 = .ok .confirm := by decide
theorem test_decode_sync : decodeWord 0b00000000000000000000000000000101#32 = .ok .sync := by decide
theorem test_decode_probe : decodeWord 0b00000000000000000000000000000110#32 = .ok .probe := by decide
theorem test_decode_xing : decodeWord 0b00000000000000000000000000000111#32 = .ok .xing := by decide
theorem test_decode_setFc : decodeWord 0b00000000000000000000000000001000#32 = .ok .setFc := by decide
theorem test_decode_setBc : decodeWord 0b00000000000000000000000000001001#32 = .ok .setBc := by decide
theorem test_decode_rejects_by_name :
    decodeWord 0x0000000F#32 = .error .illegalOpcode ∧ decodeWord 0x80000005#32 = .error .reservedBits := by decide
theorem test_table_word :
    decodeTableWord 32 7 = some .xing ∧ decodeTableWord 32 10 = none ∧ decodeTableWord 8 5 = some .sync
    ∧ decodeTableWord 40 0x100000005 = none := by decide
theorem test_fetch_word_runs_first :
    step (State.reset.withFetchWord 32 7) = exec .xing (issue 0x00000007 State.reset) := rfl

/-! ### One step of each command (95_test_vectors.md) -/

/-- L2 -/
theorem test_nop_status : after .nop State.reset .status = some 0x00000002 := by decide

/-- D1, E1: 417 bytes -/
theorem test_decode_d1 : let s := st [] 0 0xFFFB9064 0
    after .decode s .hdrInfo = some 0x00000FFD ∧ after .decode s .frameSize = some 417
    ∧ after .decode s .bitrate = some 128000 ∧ after .decode s .dataOffset = some 36 := by decide

/-- D19: BR_OK and MODE_OK both 0 -/
theorem test_decode_d19 : let s := st [] 0 0xFFFDF0C0 0
    after .decode s .hdrInfo = some 0x000018DC ∧ after .decode s .status = some 0x00000112
    ∧ after .decode s .spf = some 0 ∧ after .decode s .hdrRaw = some 0xFFFDF0C0 := by decide

/-- Frame sizes of a header at the bitrate indices 1 to 14. -/
def sizeRow (h : Word) : List Nat := (List.range' 1 14).map fun i => frameSize paramsDefault (withBrIdx h (BitVec.ofNat 4 i))

/-- R158: three rows of the table of 95_test_vectors.md (MPEG-1 L2 32000 unpadded, MPEG-2.5 L1 11025 padded, MPEG-2 L3
24000 unpadded) -/
theorem test_frame_size_rows :
    sizeRow 0xFFFD0800 = [144, 216, 252, 288, 360, 432, 504, 576, 720, 864, 1008, 1152, 1440, 1728]
    ∧ sizeRow 0xFFE70200 = [140, 212, 244, 280, 352, 420, 488, 560, 628, 700, 768, 836, 976, 1116]
    ∧ sizeRow 0xFFF30400 = [24, 48, 72, 96, 120, 144, 168, 192, 240, 288, 336, 384, 432, 480] := by decide

/-- Two columns that hold different entries are told apart by the layer bits: MPEG-1 Layer 2 and Layer 3 at index 9
(D15, D1), and MPEG-2 Layer 1 (D25) -/
theorem test_table_columns :
    kbpsByFields paramsDefault 0xFFFD90C0 9 = 160 ∧ kbpsByFields paramsDefault 0xFFFB9064 9 = 128
    ∧ kbpsByFields paramsDefault 0xFFF7E800 14 = 256 ∧ hzByFields paramsDefault 0xFFE5EA00 = 8000
    ∧ frameBytesByFields 0xFFFFE200 448000 44100 = 488 ∧ frameBytesByFields 0xFFE5EA00 160000 8000 = 2881 := by decide

/-- The rows D22 and D1 with P_SYNC_BITS = 12 -/
theorem test_twelve_sync_bits : let p := { paramsDefault with pSyncBits := 12 }
    (hdrInfoOf p 0xFFE31400).toWord = 0x00000DF8 ∧ (hdrInfoOf p 0xFFFB9064).toWord = 0x00000FFD := by decide

def bufDm : Memory := bytesAt 10 [0xFF, 0xFB, 0x90, 0x64, 0, 0]

/-- DM1 -/
theorem test_decodeMem_dm1 : let s := st bufDm 16 10 0
    after .decodeMem s .hdrRaw = some 0xFFFB9064 ∧ after .decodeMem s .frameSize = some 417 := by decide

/-- DM5: the bounds test is unbounded -/
theorem test_decodeMem_dm5 : let s := st bufDm 16 0xFFFFFFFF 0
    after .decodeMem s .status = some 0x00000272 ∧ after .decodeMem s .hdrRaw = some 0 := by decide

/-- C4 -/
theorem test_compare_c4 : let s := st [] 0 0xFFFB9064 0xFFFB9464
    after .compare s .compat = some 0x00000006 ∧ after .compare s .status = some 0x00000302 := by decide

/-- C13: every bit outside COMPAT_MASK flipped -/
theorem test_compare_c13 : let s := st [] 0 0xFFFB9064 0x001A6358
    after .compare s .compat = some 0x00000003 ∧ after .compare s .status = some 0x00000312 := by decide

def bufF1 : Memory := wordAt 7 0xFFFB14C0 ++ wordAt 103 0xFFFB14C0 ++ wordAt 199 0xFFFB14C0

/-- F4: exactly fits -/
theorem test_confirm_f4 : let s := st bufF1 203 7 0
    after .confirm s .confRes = some 0x00000031 ∧ after .confirm s .status = some 0x00000402 := by decide

/-- F3: one byte short -/
theorem test_confirm_f3 : let s := st bufF1 202 7 0
    after .confirm s .confRes = some 0x00000120 ∧ after .confirm s .status = some 0x00000422 := by decide

def bufS1 : Memory := bytesAt 0 [0x00, 0x01, 0xFF, 0xFB, 0x14, 0xC0, 0x00] ++ wordAt 7 0xFFFB14C0 ++ zerosAt 98 5
  ++ wordAt 103 0xFFFB14C0 ++ wordAt 199 0xFFFB14C0

/-- S1: the candidate at 2 lands on zeros -/
theorem test_sync_s1 : let s := st bufS1 295 0 0
    after .sync s .syncOffset = some 7 ∧ after .sync s .syncRejects = some 1
    ∧ after .sync s .status = some 0x00000502 := by decide

/-- S6 -/
theorem test_sync_s6 : let s := st bufS1 296 0xFFFFFFFF 0
    after .sync s .syncOffset = some 296 ∧ after .sync s .syncRejects = some 0
    ∧ after .sync s .status = some 0x00000522 := by decide

def bufP10 : Memory := wordAt 0 0xFFFF0200 ++ wordAt 4 0xFFFB9064

/-- P10: padded Layer 1, size 4 -/
theorem test_probe_p10 : let s := st bufP10 8 0 0
    after .probe s .probeSize = some 4 ∧ after .probe s .status = some 0x00000602 := by decide

def bufP12 : Memory := wordAt 0 0xFFFF0000 ++ zerosAt 4 8 ++ wordAt 12 0xFFFF0000

/-- P12: 3·44100 mod 48 ≠ 0 -/
theorem test_probe_p12 : let s := st bufP12 16 0 0
    after .probe s .probeSize = some 0 ∧ after .probe s .status = some 0x00000632 := by decide

/-- The block of X31: a Layer 2 frame, so the tag at 4; the TOC bytes are not read. -/
def bufX31 : Memory := wordAt 0 0xFFFD9400 ++ wordAt 4 0x58696E67 ++ wordAt 8 0xF ++ wordAt 12 1000 ++ wordAt 16 384000
  ++ wordAt 120 50

/-- X31 -/
theorem test_xing_x31 : let s := st bufX31 384 0 0
    after .xing s .xingInfo = some 3 ∧ after .xing s .xingTagOff = some 4 ∧ after .xing s .xingFrames = some 1000
    ∧ after .xing s .xingBytes = some 384000 ∧ after .xing s .xingTocOff = some 20
    ∧ after .xing s .xingQuality = some 50 ∧ after .xing s .status = some 0x00000702 := by decide

/-- X21's case on the block of X31: the quality field ends one byte past BUF_LEN -/
theorem test_xing_truncated : let s := st bufX31 123 0 0
    after .xing s .xingInfo = some 0 ∧ after .xing s .xingFrames = some 0 ∧ after .xing s .xingMask = some 0
    ∧ after .xing s .status = some 0x00000742 := by decide

/-- The state after X16 and `ARG1 = v`. -/
def stX16 (v : Word) : State :=
  { State.reset with arg1 := v, xing := ⟨⟨true, true, false⟩, 36, 0xF, 1000, 384000, 52, 50⟩ }

/-- M1, M2 -/
theorem test_setFc_m2 : after .setFc (stX16 1000) .xingInfo = some 3 ∧ after .setFc (stX16 999) .xingInfo = some 7
    ∧ after .setFc (stX16 999) .xingFrames = some 999 ∧ after .setFc (stX16 999) .xingBytes = some 384000 := by decide

/-- M7 -/
theorem test_setFc_m7 : after .setFc (st [] 0 0 5) .status = some 0x00000852
    ∧ after .setFc (st [] 0 0 5) .xingFrames = some 0 := by decide

/-- M4 -/
theorem test_setBc_m4 : after .setBc (stX16 0) .xingInfo = some 7 ∧ after .setBc (stX16 0) .xingBytes = some 0
    ∧ after .setBc (stX16 0) .xingFrames = some 1000 := by decide

/-- M8 -/
theorem test_setBc_m8 : after .setBc State.reset .status = some 0x00000952 := by decide

/-! ### Lifecycle, registers, interrupt and reset -/

/-- L4, L5 -/
theorem test_illegal_words :
    afterStep (issued 0x11 State.reset) .status = some 0x00000162
    ∧ afterStep (issued 0x11 State.reset) .hdrRaw = some 0
    ∧ afterStep (issued 0x80000005 State.reset) .status = some 0x00000562 := by decide

/-- L6 -/
theorem test_status_while_busy :
    readAfter (hosting (.read 0x04 32) (issued 1 State.reset)) = some (0x00000101, 0) := by decide

/-- R124: a result register read while busy draws the next free value -/
theorem test_result_read_while_busy (n : Nat) :
    readAfter (hosting (.read 0x18 32) { issued 1 State.reset with freeCount := n })
      = some (Config.busyRead n, n + 1) := rfl

/-- L7, L8 -/
theorem test_writes_while_busy :
    afterStep (hosting (.write 0x0C 32 0xFFFB9064) (issued 1 State.reset)) .arg0 = some 0
    ∧ afterStep (hosting (.write 0x00 32 1) (issued 0 State.reset)) .status = some 0x00000001 := by decide

/-- L12 -/
theorem test_buf_len_clamps :
    afterStep (hosting (.write 0x14 32 0xFFFFFFFF) { State.reset with params := { paramsDefault with bufCap := 4096 } })
      .bufLen = some 0x00001000 := by decide

/-- L15, L16, L13 -/
theorem test_reserved_and_read_only :
    afterStep (hosting (.write 0x08 32 3) State.reset) .ctrl = some 1
    ∧ afterStep (hosting (.write 0x18 32 5) State.reset) .hdrRaw = some 0
    ∧ readAfter (hosting (.read 0x68 32) State.reset) = some (0, 0) := by decide

def doneWithIe : State := { State.reset with ctrl := ⟨true⟩, status := ⟨true, .none, 0⟩ }

/-- L9, L10, L11 -/
theorem test_irq :
    irqAfter { issued 0 State.reset with ctrl := ⟨true⟩ } = some true
    ∧ irqAfter (hosting (.write 0x04 32 2) doneWithIe) = some false
    ∧ irqAfter (hosting (.write 0x08 32 1) { doneWithIe with ctrl := ⟨false⟩ }) = some true := by decide

/-- L14 -/
theorem test_reset_discards :
    afterStep { issued 5 State.reset with agenda := [.reset] } .status = some 0
    ∧ (resetEvent (issued 5 State.reset)).pending = none := by decide

theorem test_host_moves_that_stop :
    step (hosting (.read 0x02 32) State.reset) = .refused .notAWordAccess
    ∧ step (hosting (.write 0x04 8 2) State.reset) = .refused .notAWordAccess
    ∧ step (hosting (.bufWrite 0 1) (issued 0 State.reset)) = .refused .bufferWriteWhileBusy
    ∧ step (hosting (.read 0x100 32) State.reset) = .fault .noSuchRegister
    ∧ step (hosting (.bufWrite 0xFFFFFFFF 1) State.reset) = .fault .noSuchBufferByte := ⟨rfl, rfl, rfl, rfl, rfl⟩

/-- A `BUF` line writes its bytes in order, and the buffer keeps its canonical form -/
theorem test_buffer_lines :
    HostLine.turns (.buf 5 [1, 2]) = [.host (.bufWrite 5 1), .host (.bufWrite 6 2)]
    ∧ Memory.put (Memory.put [] 6 2) 5 1 = bytesAt 5 [1, 2] ∧ Memory.put [(5, 1)] 5 7 = [(5, 7)] := by decide

/-- The last buffer byte and one step of each clause at the ends of the windows -/
theorem test_window_boundaries :
    readAfter (hosting (.read 0xFC 32) State.reset) = some (0, 0)
    ∧ afterStep (hosting (.bufWrite 0xFFFFFFFE 1) State.reset) .status = some 0 := by decide

/-! ### Witnesses: for each obligation with hypotheses, states and operands that meet them, one for each clause -/

/-- A state of the invariant with a command running. -/
def busyState : State := { issued 7 (st bufX31 384 0 9) with agenda := [.engine] }

theorem test_inv_busy : Inv busyState where
  params_legal := by decide
  len_cap := by decide
  buf_wf := by decide
  buf_cap := by decide
  status := ⟨by decide, by decide, fun w h => by cases h; decide, by decide⟩
  result := ⟨Or.inl rfl, by decide, by decide, by decide, by decide, Or.inl rfl⟩

theorem test_inv_of_busy (t : List Turn) : Inv { busyState with agenda := t } :=
  have ⟨a, b, c, d, e, r⟩ := test_inv_busy
  ⟨a, b, c, d, ⟨e.1, e.2, e.3, e.4⟩, ⟨r.1, r.2, r.3, r.4, r.5, r.6⟩⟩

theorem test_witness_IllegalWordsCompleteWithIllegalCommand :
    (issued 0x11 State.reset).pending = some 0x11 ∧ (issued 0x11 State.reset).agenda = []
    ∧ (issued 0x11 { State.reset with agenda := [.engine, .reset] }).agenda = .engine :: [.reset]
    ∧ (0x11#32).extractLsb 31 4 ≠ 0 ∧ (0x80000000#32).extractLsb 31 4 ≠ 0
    ∧ 0xA ≤ ((0xA#32).extractLsb 3 0).toNat ∧ 0xA ≤ ((0xF#32).extractLsb 3 0).toNat := by decide

theorem test_witness_StepRunsTheDecodedCommand :
    (issued 7 State.reset).pending = some 7 ∧ decodeWord 7 = .ok .xing ∧ (issued 7 State.reset).agenda = []
    ∧ busyState.agenda = .engine :: [] := by decide

theorem test_witness_CmdWriteIssuesTheCommand :
    let s := hosting (.write 0x00 32 5) (st bufX31 384 0 0)
    busy s = false ∧ s.agenda = .host (.write 0x00 32 5) :: [] := by decide

theorem test_witness_WritesWhileBusyAreIgnored :
    ∀ o ∈ [0x00, 0x14, 0x18, 0x68, 0xFC], let s := hosting (.write o 32 1) busyState
      busy s = true ∧ o % 4 = 0 ∧ o < 256 ∧ s.agenda = .host (.write o 32 1) :: [] := by decide

theorem test_witness_OperandsHoldUntilCompletion :
    let s := hosting (.write 0x0C 32 1) busyState
    busy s = true ∧ nextTurn s ≠ .engine ∧ nextTurn s ≠ .reset ∧ ∃ t, step s = .next t :=
  ⟨by decide, by decide, by decide, _, rfl⟩

theorem test_witness_EveryPendingCommandCompletes :
    (issued 0xF State.reset).pending = some 0xF ∧ (issued 0xF State.reset).agenda = []
    ∧ (let s := { busyState with agenda := [.host (.read 0x04 32), .engine, .host (.write 0x04 32 2)] };
      busy s = true ∧ dutiful s.params true s.agenda = true ∧ Turn.reset ∉ s.agenda)
    ∧ (let s := { busyState with agenda := [] };
      busy s = true ∧ dutiful s.params true s.agenda = true ∧ Turn.reset ∉ s.agenda)
    ∧ let s := { busyState with agenda := [.host (.read 0x04 32), .reset] }
      busy s = true ∧ dutiful s.params true s.agenda = true ∧ Turn.reset ∈ s.agenda := by decide

theorem test_witness_RunPollsUntilTheCompletedStatus :
    ∀ polls ∈ [0, 3], let s := { st bufX31 384 0 0 with agenda := (HostLine.run .xing polls).turns }
      busy s = false ∧ s.agenda = (HostLine.run .xing polls).turns := by decide

/-- For CommandsWriteOnlyTheirGroup, CommandsWriteOnlyTheirErrorCodes, CompletedStatusWord and
IrqFollowsCompletionAndClears: every command completes here. -/
theorem test_witness_commands_complete :
    ∀ i, ∃ t, exec i (issue (encode i) (st bufX31 384 0 0xFFFB9064)) = .next t := by
  intro i
  cases i <;> exact ⟨_, rfl⟩

theorem test_witness_SetFc_writes_what_it_may :
    ∃ t, exec .setFc (stX16 7) = .next t ∧ t.xing.info.modified = true ∧ t.xing.frames = 7 :=
  ⟨_, rfl, rfl, rfl⟩

theorem test_witness_IrqFollowsCompletionAndClears :
    (∀ o v, let s := hosting (.write o 32 v) doneWithIe
      busy s = false ∧ s.agenda = .host (.write o 32 v) :: [])
    ∧ (∃ t, step (hosting (.write 0x00 32 5) doneWithIe) = .next t)
    ∧ (∃ t, step (hosting (.write 0x04 32 2) doneWithIe) = .next t)
    ∧ (∃ t, step (hosting (.write 0x08 32 0) doneWithIe) = .next t)
    ∧ (∃ t, step (hosting (.write 0x08 32 1) doneWithIe) = .next t)
    ∧ (2#32).getLsbD 1 = true ∧ (0#32).getLsbD 0 = false ∧ (1#32).getLsbD 0 = true :=
  ⟨fun _ _ => ⟨rfl, rfl⟩, ⟨_, rfl⟩, ⟨_, rfl⟩, ⟨_, rfl⟩, ⟨_, rfl⟩, rfl, rfl, rfl⟩

theorem test_witness_UnmappedOffsetsReadZeroAndIgnoreWrites :
    ∀ o ∈ [0x68, 0xFC], o % 4 = 0 ∧ 0x68 ≤ o ∧ o ≤ 0xFC
      ∧ (hosting (.read o 32) State.reset).agenda = .host (.read o 32) :: []
      ∧ (hosting (.write o 32 1) State.reset).agenda = .host (.write o 32 1) :: [] := by decide

theorem test_witness_ReadsHaveNoSideEffect :
    (∀ o ∈ [0x00, 0x64, 0xFC], o % 4 = 0 ∧ o < 256
      ∧ (hosting (.read o 32) State.reset).agenda = .host (.read o 32) :: [])
    ∧ busy (hosting (.read 0x64 32) State.reset) = false ∧ Reg.xingQuality.offset = 0x64 := by decide

theorem test_witness_ReadsWhileBusy (r : Reg) :
    Inv (hosting (.read r.offset 32) busyState) ∧ (hosting (.read r.offset 32) busyState).pending = some 7
    ∧ (hosting (.read r.offset 32) busyState).agenda = .host (.read r.offset 32) :: []
    ∧ Reg.hdrRaw.isResult = true ∧ Reg.xingQuality.isResult = true :=
  ⟨test_inv_of_busy _, rfl, rfl, rfl, rfl⟩

theorem test_witness_IdleWritesStoreOperandsOnly :
    (∀ r ∈ [Reg.arg0, .arg1, .hdrRaw, .xingQuality], let s := hosting (.write r.offset 32 5) State.reset
      busy s = false ∧ s.agenda = .host (.write r.offset 32 5) :: [])
    ∧ Reg.hdrRaw.isResult = true ∧ Reg.xingQuality.isResult = true := by decide

def smallParams : Params := { paramsDefault with bufCap := 4096 }

/-- A value at the capacity and one past it -/
theorem test_witness_BufLenWriteClamps :
    paramsLegal smallParams = true
    ∧ (let s := hosting (.write 0x14 32 4096) { State.reset with params := smallParams };
      s.params = smallParams ∧ busy s = false ∧ s.agenda = .host (.write 0x14 32 4096) :: [])
    ∧ let s := hosting (.write 0x14 32 4097) { State.reset with params := smallParams };
      s.params = smallParams ∧ busy s = false ∧ s.agenda = .host (.write 0x14 32 4097) :: [] := by decide

theorem test_witness_CtrlHoldsInterruptEnableOnly :
    let s := hosting (.write 0x08 32 3) State.reset
    busy s = false ∧ s.agenda = .host (.write 0x08 32 3) :: [] := by decide

theorem test_witness_StatusWriteClearsDoneOnly :
    (let s := hosting (.write 0x04 32 0) doneWithIe;
      busy s = false ∧ s.agenda = .host (.write 0x04 32 0) :: [])
    ∧ let s := hosting (.write 0x04 32 2) doneWithIe
      busy s = false ∧ s.agenda = .host (.write 0x04 32 2) :: [] := by decide

theorem test_witness_HostNeverChangesAResultRegister :
    (∃ t, hostStep (.write 0x18 32 5) State.reset = .next t) ∧ Reg.hdrRaw.isResult = true :=
  ⟨⟨_, rfl⟩, rfl⟩

theorem test_witness_MovesOutsideTheInterfaceStop :
    (hosting (.read 0x02 32) State.reset).agenda = .host (.read 0x02 32) :: []
    ∧ (hosting (.write 0x04 8 1) State.reset).agenda = .host (.write 0x04 8 1) :: []
    ∧ (0x02 % 4 ≠ 0) ∧ (8 ≠ 32) ∧ (0x100 % 4 = 0 ∧ 256 ≤ 0x100)
    ∧ busy (hosting (.bufWrite 0 1) busyState) = true
    ∧ busy (hosting (.bufWrite 0xFFFFFFFF 1) State.reset) = false
    ∧ (hosting (.bufWrite 0xFFFFFFFF 1) State.reset).params.bufCap ≤ 0xFFFFFFFF := by decide

theorem test_witness_BufferWriteChangesOneByte :
    ∀ o ∈ [0, 0xFFFFFFFE], let s := hosting (.bufWrite o 1) State.reset
      busy s = false ∧ o < s.params.bufCap ∧ s.agenda = .host (.bufWrite o 1) :: [] := by decide

theorem test_witness_OnlyTheHostWritesTheBuffer :
    (∃ t, step (hosting (.bufWrite 9 1) State.reset) = .next t) ∧ ∃ t, step busyState = .next t :=
  ⟨⟨_, rfl⟩, _, rfl⟩

theorem test_witness_ResetClearsEveryRegister :
    ({ busyState with agenda := [.reset] } : State).agenda = .reset :: [] := by decide

theorem test_witness_SyncAndModeChecks :
    paramsDefault.pSyncBits = 11 ∧ ({ paramsDefault with pSyncBits := 12 } : Params).pSyncBits = 12
    ∧ (0xFFFDB0C0#32).extractLsb 20 19 = 0b11#2 ∧ (0xFFFDB0C0#32).extractLsb 18 17 = 0b10#2
    ∧ (0xFFFB9064#32).extractLsb 18 17 ≠ 0b10#2 := by decide

theorem test_witness_UncheckedBitsDoNotMatter :
    (0xFFFB9064#32 ^^^ 0xFFFA935C#32) &&& 0xFFFEFCC3#32 = 0 := by decide

theorem test_witness_SamplesAndSlots_and_SideInfo :
    (0xFFFFE000#32).extractLsb 18 17 = 0b11#2 ∧ (0xFFFD90C0#32).extractLsb 18 17 = 0b10#2
    ∧ (0xFFFB9064#32).extractLsb 18 17 = 0b01#2 ∧ (0xFFFB9064#32).extractLsb 20 19 = 0b11#2
    ∧ (0xFFF314C0#32).extractLsb 18 17 = 0b01#2 ∧ (0xFFF314C0#32).extractLsb 20 19 ≠ 0b11#2 := by decide

theorem test_witness_FrameSizesLieBetween24And2881 :
    paramsDefault.bitrateKbps = bitrateKbpsDefault ∧ paramsDefault.srateHz = srateHzDefault
    ∧ valid paramsDefault 0xFFFB9064 = true ∧ isFree 0xFFFB9064 = false := by decide

theorem test_witness_DecodeWritesTheGeometry :
    let s := st [] 0
    paramsLegal (s 0xFFFB9064 0).params = true
    ∧ (valid (s 0xFFFB9064 0).params (s 0xFFFB9064 0).arg0 = true ∧ isFree (s 0xFFFB9064 0).arg0 = false)
    ∧ (valid (s 0xFFFB0064 0).params (s 0xFFFB0064 0).arg0 = true ∧ isFree (s 0xFFFB0064 0).arg0 = true)
    ∧ valid (s 0xFFFB9066 0).params (s 0xFFFB9066 0).arg0 = false := by decide

theorem test_witness_DecodeMemReadsBigEndian :
    (st bufDm 16 12 0).arg0.toNat + 4 ≤ (st bufDm 16 12 0).bufLen.toNat
    ∧ (st bufDm 16 13 0).bufLen.toNat < (st bufDm 16 13 0).arg0.toNat + 4 := by decide

theorem test_witness_ProbeFindsTheFirstSize :
    (let d := inputOf (st bufP10 8 0 0);
      hdrAt d 0 = some 0xFFFF0200 ∧ probe d 0 = some 4 ∧ valid d.params 0xFFFF0200 = true)
    ∧ (let d := inputOf (st bufP12 16 0 0); hdrAt d 0 = some 0xFFFF0000 ∧ probe d 0 = none) := by decide

/-- P9, P8's case, P7's case, P10 and P12 -/
theorem test_witness_ProbeCommandReports :
    hdrAt (inputOf (st bufP10 3 0 0)) 0 = none
    ∧ (hdrAt (inputOf (st (zerosAt 0 4) 4 0 0)) 0 = some 0 ∧ valid paramsDefault 0 = false)
    ∧ (hdrAt (inputOf (st bufP10 8 4 0)) 4 = some 0xFFFB9064 ∧ valid paramsDefault 0xFFFB9064 = true
      ∧ isFree 0xFFFB9064 = false)
    ∧ (hdrAt (inputOf (st bufP10 8 0 0)) 0 = some 0xFFFF0200 ∧ valid paramsDefault 0xFFFF0200 = true
      ∧ isFree 0xFFFF0200 = true ∧ probe (inputOf (st bufP10 8 0 0)) 0 = some 4)
    ∧ probe (inputOf (st bufP12 16 0 0)) 0 = none := by decide

def bufF5 : Memory := wordAt 0 0xFFFB14C0 ++ wordAt 96 0xFFFB14C0 ++ wordAt 192 0xFFFB1400
def bufF7 : Memory := wordAt 0 0xFFFB14C0 ++ zerosAt 96 4

/-- F1, F3, F7, F5 and F14's case: each reason of R36 -/
theorem test_witness_ConfirmReportsTheChain :
    1 ≤ paramsDefault.pConfirm
    ∧ confirm (inputOf (st bufF1 295 7 0)) 7 = ⟨true, 3, .confirmed⟩
    ∧ confirm (inputOf (st bufF1 202 7 0)) 7 = ⟨false, 2, .outOfBuffer⟩
    ∧ confirm (inputOf (st bufF7 300 0 0)) 0 = ⟨false, 1, .invalid⟩
    ∧ confirm (inputOf (st bufF5 300 0 0)) 0 = ⟨false, 2, .incompatible⟩
    ∧ confirm (inputOf (st bufP12 16 0 0)) 0 = ⟨false, 1, .probeFailed⟩ := by decide

/-- F10: with P_CONFIRM = 2 two frames suffice -/
theorem test_witness_ConfirmedIffTheChainHolds :
    let s := { st bufF5 300 0 0 with params := { paramsDefault with pConfirm := 2 } }
    1 ≤ (inputOf s).params.pConfirm ∧ (confirm (inputOf s) 0).ok = true := by decide

theorem test_witness_ConfirmCommandReports :
    paramsLegal (st bufF1 295 7 0).params = true ∧ paramsLegal { paramsDefault with pConfirm := 15 } = true := by decide

/-- S1 and S5 -/
theorem test_witness_SyncFindsTheFirstConfirmedOffset :
    sync (inputOf (st bufS1 295 0 0)) 0 = ⟨true, 7, 1⟩
    ∧ sync (inputOf (st bufS1 295 292 0)) 292 = ⟨false, 295, 0⟩ := by decide

def bufJunk : Memory := bytesAt 0 [0x00, 0xFF] ++ wordAt 2 0xFFF31400 ++ wordAt 26 0xFFF31400 ++ wordAt 50 0xFFF31400

theorem test_witness_SyncFindsAStreamBehindJunk :
    let d := inputOf (st bufJunk 74 0 0)
    1 ≤ d.params.pConfirm ∧ 0 ≤ 2 ∧ valid d.params 0xFFF31400 = true ∧ isFree 0xFFF31400 = false
    ∧ (∀ k, k < d.params.pConfirm → hdrAt d (2 + k * frameSize d.params 0xFFF31400) = some 0xFFF31400)
    ∧ ∀ o, 0 ≤ o → o < 2 → isCandidate d o = true → (confirm d o).ok = false := by
  refine ⟨by decide, by decide, by decide, by decide, by decide, fun o _ h => ?_⟩
  obtain rfl | rfl : o = 0 ∨ o = 1 := by omega
  all_goals decide

theorem test_witness_SyncCommandReports :
    (st bufS1 296 293 0).bufLen.toNat < (st bufS1 296 293 0).arg0.toNat + 4 := by decide

theorem test_witness_ResultsDependOnlyOnTheInputs :
    let s := st bufP10 8 0 0
    let s' := { stX16 0 with buf := Memory.put bufP10 8 1, bufLen := 8, status := ⟨true, .unsupported, 8⟩ }
    s.params = s'.params ∧ s.arg0 = s'.arg0 ∧ s.arg1 = s'.arg1 ∧ s.bufLen = s'.bufLen
    ∧ (∀ a, a < s.bufLen.toNat → s.buf.byte a = s'.buf.byte a)
    ∧ (∃ t, exec .probe s = .next t ∧ t.status.err ≠ .bufferBounds) ∧ (∃ t, exec .probe s' = .next t)
    ∧ (∃ t, exec .decodeMem s = .next t ∧ t.status.err ≠ .bufferBounds) ∧ ∃ t, exec .decodeMem s' = .next t := by
  refine ⟨by decide, by decide, by decide, by decide, by decide, ⟨_, rfl, by decide⟩, ⟨_, rfl⟩, ⟨_, rfl, by decide⟩,
    _, rfl⟩

/-- The mutators and DECODE_MEM out of bounds: group X agrees, the rest of the results does not. -/
theorem test_witness_ResultsDependOnlyOnTheInputs_mutators :
    let s := stX16 999
    let s' := { stX16 999 with buf := bufP10, status := ⟨true, .unsupported, 8⟩, probeSize := 4 }
    s.params = s'.params ∧ s.arg0 = s'.arg0 ∧ s.arg1 = s'.arg1 ∧ s.bufLen = s'.bufLen
    ∧ (∀ a, a < s.bufLen.toNat → s.buf.byte a = s'.buf.byte a) ∧ s.xing = s'.xing
    ∧ (∃ t, exec .setFc s = .next t) ∧ (∃ t, exec .setFc s' = .next t)
    ∧ (∃ t, exec .setBc s = .next t) ∧ (∃ t, exec .setBc s' = .next t)
    ∧ (∃ t, exec .decodeMem s = .next t ∧ t.status.err = .bufferBounds) ∧ ∃ t, exec .decodeMem s' = .next t := by
  refine ⟨by decide, by decide, by decide, by decide, by decide, by decide, ⟨_, rfl⟩, ⟨_, rfl⟩, ⟨_, rfl⟩, ⟨_, rfl⟩,
    ⟨_, rfl, by decide⟩, _, rfl⟩

theorem test_witness_XingParsesAWholeBlock :
    TagAt (inputOf (st bufX31 124 0 0)) 0 4 0x58696E67 ∧ WholeBlock (inputOf (st bufX31 124 0 0)) 4 0xF :=
  ⟨⟨0xFFFD9400, by decide, by decide, by decide, by decide, by decide⟩, by decide, by decide⟩

theorem test_witness_XingOtherwiseClearsGroupX :
    (let d := inputOf (st bufX31 123 0 0); TagAt d 0 4 0x58696E67 ∧ ¬∃ p0 tag m, TagAt d 0 p0 tag ∧ WholeBlock d p0 m)
    ∧ hdrAt (inputOf (st bufX31 384 381 0)) 381 = none
    ∧ (hdrAt (inputOf (st bufX31 384 4 0)) 4 = some 0x58696E67 ∧ valid paramsDefault 0x58696E67 = false)
    ∧ let d := inputOf (st bufX31 7 0 0)
      hdrAt d 0 = some 0xFFFD9400 ∧ valid paramsDefault 0xFFFD9400 = true ∧ ¬∃ p0 tag, TagAt d 0 p0 tag := by
  refine ⟨⟨⟨0xFFFD9400, by decide, by decide, by decide, by decide, by decide⟩, ?_⟩, by decide, by decide, by decide,
    by decide, ?_⟩
  · rintro ⟨p0, tag, m, ⟨h, hh, -, rfl, -⟩, hm, hl⟩
    cases (show some 0xFFFD9400#32 = some h by rw [← hh]; decide)
    cases (show some 0xF#32 = some m by rw [← hm]; decide)
    revert hl
    decide
  · rintro ⟨p0, tag, h, hh, -, rfl, ht, -⟩
    cases (show some 0xFFFD9400#32 = some h by rw [← hh]; decide)
    rw [show readWord (inputOf (st bufX31 7 0 0)) (0 + dataOffset 0xFFFD9400#32) = none by decide] at ht
    cases ht

theorem test_witness_SetFrameCount_and_SetByteCount :
    (st [] 0 0 5).xing.info.present = false ∧ (stX16 1000).xing.info.present = true
    ∧ (stX16 1000).arg1 = regValue (stX16 1000) .xingFrames ∧ (stX16 999).arg1 ≠ regValue (stX16 999) .xingFrames
    ∧ (stX16 384000).arg1 = regValue (stX16 384000) .xingBytes
    ∧ (stX16 0).arg1 ≠ regValue (stX16 0) .xingBytes := by decide

theorem test_witness_XingDataChangesOnlyByXingOrReset :
    let s := { issue 8 (stX16 5) with agenda := [] }
    (∃ t, step s = .next t) ∧ nextTurn s ≠ .reset ∧ ¬(nextTurn s = .engine ∧ s.pending = some (encode .xing)) :=
  ⟨⟨_, rfl⟩, by decide, by decide⟩

theorem test_witness_EveryStepKeepsTheInvariant : Inv busyState ∧ ∃ t, step busyState = .next t :=
  ⟨test_inv_busy, _, rfl⟩

theorem test_witness_DutifulHostRunsSafely :
    let s := { State.reset with agenda := programTurns [.buf 0 [0xFF, 0xFB], .wr 0x14 2, .run .sync 1, .rd 0x40] }
    dutiful s.params (busy s) s.agenda = true ∧ dutiful busyState.params (busy busyState) busyState.agenda = true := by
  decide

theorem test_witness_EqualBuffersAreEqualData :
    (Memory.put (Memory.put [] 6 2) 5 1).wf ∧ (bytesAt 5 [1, 2]).wf
    ∧ ∀ a, (Memory.put (Memory.put [] 6 2) 5 1).get a = (bytesAt 5 [1, 2]).get a :=
  ⟨by decide, by decide, fun _ => rfl⟩

end Sys2Proof.Tests
end

section
/-! SUPPORT. 00_scope.md: the MFD writes neither the buffer nor the parameters (R11, R52, R291). -/

namespace Sys2Proof.Machine

theorem exec_params {i : Instr} {s t : State} (h : exec i s = .next t) : t.params = s.params := by
  obtain ⟨_, _, _, _, _, _, _, rfl⟩ := exec_frame h
  rfl

theorem exec_buf {i : Instr} {s t : State} (h : exec i s = .next t) : t.buf = s.buf := by
  obtain ⟨_, _, _, _, _, _, _, rfl⟩ := exec_frame h
  rfl

@[simp] theorem readReg_params (o : Nat) (s : State) : (readReg o s).params = s.params := by
  obtain ⟨_, _, h⟩ := readReg_frame o s
  rw [h]

@[simp] theorem readReg_buf (o : Nat) (s : State) : (readReg o s).buf = s.buf := by
  obtain ⟨_, _, h⟩ := readReg_frame o s
  rw [h]

@[simp] theorem writeReg_params (o : Nat) (v : Word) (s : State) : (writeReg o v s).params = s.params := by
  obtain ⟨_, _, _, _, _, _, h⟩ := writeReg_frame o v s
  rw [h]

@[simp] theorem writeReg_buf (o : Nat) (v : Word) (s : State) : (writeReg o v s).buf = s.buf := by
  obtain ⟨_, _, _, _, _, _, h⟩ := writeReg_frame o v s
  rw [h]

theorem engineTurn_params {s t : State} (h : engineTurn s = .next t) : t.params = s.params := by
  obtain ⟨-, rfl⟩ | ⟨_, _, -, -, hx⟩ | ⟨_, _, -, -, rfl⟩ := engineTurn_cases h
  · rfl
  · exact exec_params hx
  · exact complete_params _ s

theorem engineTurn_buf {s t : State} (h : engineTurn s = .next t) : t.buf = s.buf := by
  obtain ⟨-, rfl⟩ | ⟨_, _, -, -, hx⟩ | ⟨_, _, -, -, rfl⟩ := engineTurn_cases h
  · rfl
  · exact exec_buf hx
  · exact complete_buf _ s

theorem hostStep_params {m : HostStep} {s t : State} (h : hostStep m s = .next t) : t.params = s.params := by
  obtain ⟨o, -, -, -, rfl⟩ | ⟨o, v, -, -, -, rfl⟩ | ⟨o, b, -, -, -, rfl⟩ := hostStep_cases h
  · exact readReg_params o s
  · exact writeReg_params o v s
  · rfl

theorem hostStep_buf {m : HostStep} {s t : State} (h : hostStep m s = .next t) :
    (∃ o b, m = .bufWrite o b) ∨ t.buf = s.buf := by
  obtain ⟨o, -, -, -, rfl⟩ | ⟨o, v, -, -, -, rfl⟩ | ⟨o, b, hm, -, -, -⟩ := hostStep_cases h
  · exact .inr (readReg_buf o s)
  · exact .inr (writeReg_buf o v s)
  · exact .inl ⟨o, b, hm⟩

/-- Power-on fixes the parameters: no turn, a reset included, changes them (R291). -/
theorem step_params {s t : State} (h : step s = .next t) : t.params = s.params := by
  obtain ⟨-, he⟩ | ⟨_, -, hh⟩ | ⟨-, rfl⟩ := step_cases h
  · exact (engineTurn_params he).trans rfl
  · exact (hostStep_params hh).trans rfl
  · rfl

/-- The engine and a reset leave the buffer alone; among the host's steps only a buffer write does not (R11). -/
theorem step_buf {s t : State} (h : step s = .next t) :
    (∃ o b, nextTurn s = .host (.bufWrite o b)) ∨ t.buf = s.buf := by
  obtain ⟨-, he⟩ | ⟨m, hn, hh⟩ | ⟨-, rfl⟩ := step_cases h
  · exact .inr ((engineTurn_buf he).trans rfl)
  · obtain ⟨o, b, rfl⟩ | hb := hostStep_buf hh
    · exact .inl ⟨o, b, hn⟩
    · exact .inr hb
  · exact .inr rfl

end Sys2Proof.Machine

namespace Sys2Proof

/-- Settles O26: every turn's frame lemma, put together by `step_params` and `step_buf`. -/
theorem onlyTheHostWritesTheBuffer : Obligations.OnlyTheHostWritesTheBuffer :=
  fun _ _ h => ⟨Machine.step_params h, Machine.step_buf h⟩

end Sys2Proof
end

section
/-! SUPPORT. 10_state.md: what a command can write (R53, R263), register by register. -/

namespace Sys2Proof.Machine

/-! ### The error codes of the commands (R263) -/

theorem ite_code_mem {b : Prop} [Decidable b] {e e' : ErrCode} {l : List Nat} (h : e.code.toNat ∈ l)
    (h' : e'.code.toNat ∈ l) : (if b then e else e').code.toNat ∈ l := by
  split <;> assumption

/-- Every command can complete with NONE. -/
theorem none_code_mem (i : Instr) : ErrCode.none.code.toNat ∈ errorCodes i := by cases i <;> decide

theorem headerErr_code_mem (p : Params) (h : Word) : (headerErr p h).code.toNat ∈ [0, 1] :=
  ite_code_mem (by decide) (by decide)

theorem probeCommand_code_mem (d : Input) (o : Nat) : (probeCommand d o).2.code.toNat ∈ errorCodes .probe := by
  unfold probeCommand
  split
  · decide
  · split
    · decide
    · split
      · decide
      · split
        · exact none_code_mem .probe
        · decide

theorem parseXing_code_mem (d : Input) (f : Nat) : (parseXing d f).2.code.toNat ∈ errorCodes .xing := by
  unfold parseXing
  split
  · decide
  · split
    · decide
    · split
      · decide
      · split
        · decide
        · split
          · exact none_code_mem .xing
          · decide

/-- No command's table entry holds a reserved code (R262). -/
theorem errorCodes_le (i : Instr) : ∀ c ∈ errorCodes i, c ≤ 7 := by cases i <;> decide

/-! ### The registers a command writes (R53) -/

/-- The state a command leaves before its completion sets STATUS: its own group of registers written, with the
value its rule gives, or nothing written. -/
inductive GroupWrite (s : State) : Instr → State → Prop
  | unchanged (i : Instr) : GroupWrite s i s
  | decode : GroupWrite s .decode { s with hdr := headerRegs s.params s.arg0 }
  | decodeMem (w : Word) : GroupWrite s .decodeMem { s with hdr := headerRegs s.params w }
  | compare : GroupWrite s .compare { s with compat := compatOf s.params s.arg0 s.arg1 }
  | confirm : GroupWrite s .confirm { s with confRes := confResOf (confirm (inputOf s) (offsetOperand s)) }
  | sync (y : SyncRegs) : GroupWrite s .sync { s with sync := y }
  | probe : GroupWrite s .probe { s with
      probeSize := BitVec.ofNat 32 (probeCommand (inputOf s) (offsetOperand s)).1 }
  | xing : GroupWrite s .xing { s with xing := (parseXing (inputOf s) (offsetOperand s)).1 }
  | setFc (present : s.xing.info.present = true) : GroupWrite s .setFc { s with xing := setFrames s.arg1 s.xing }
  | setBc (present : s.xing.info.present = true) : GroupWrite s .setBc { s with xing := setBytes s.arg1 s.xing }

/-- Every command writes its group, then completes with a code of its row of R263. -/
theorem exec_groupWrite {i : Instr} {s t : State} (h : exec i s = .next t) :
    ∃ e u, e.code.toNat ∈ errorCodes i ∧ GroupWrite s i u ∧ t = complete e u := by
  cases i with
  | nop => cases h; exact ⟨_, _, none_code_mem _, .unchanged _, rfl⟩
  | decode => cases h; exact ⟨_, _, headerErr_code_mem .., .decode, rfl⟩
  | decodeMem =>
    simp only [exec, execDecodeMem] at h
    split at h <;> cases h
    · exact ⟨_, _, List.mem_append_left [7] (headerErr_code_mem ..), .decodeMem _, rfl⟩
    · exact ⟨_, _, by decide, .unchanged _, rfl⟩
  | compare => cases h; exact ⟨_, _, ite_code_mem (by decide) (by decide), .compare, rfl⟩
  | confirm => cases h; exact ⟨_, _, ite_code_mem (by decide) (by decide), .confirm, rfl⟩
  | sync => cases h; exact ⟨_, _, ite_code_mem (by decide) (by decide), .sync _, rfl⟩
  | probe => cases h; exact ⟨_, _, probeCommand_code_mem .., .probe, rfl⟩
  | xing => cases h; exact ⟨_, _, parseXing_code_mem .., .xing, rfl⟩
  | setFc =>
    simp only [exec, execSetFc] at h
    split at h <;> cases h
    · next hp => exact ⟨_, _, none_code_mem _, .setFc hp, rfl⟩
    · exact ⟨_, _, by decide, .unchanged _, rfl⟩
  | setBc =>
    simp only [exec, execSetBc] at h
    split at h <;> cases h
    · next hp => exact ⟨_, _, none_code_mem _, .setBc hp, rfl⟩
    · exact ⟨_, _, by decide, .unchanged _, rfl⟩

/-- SET_FC changes the frame-count and MODIFIED at most (R240). -/
theorem setFrames_frame (v : Word) (x : XingRegs) :
    ∃ f m, setFrames v x = { x with frames := f, info := { x.info with modified := m } } := by
  unfold setFrames
  split
  · exact ⟨x.frames, x.info.modified, rfl⟩
  · exact ⟨v, true, rfl⟩

/-- SET_BC changes the byte-count and MODIFIED at most (R241). -/
theorem setBytes_frame (v : Word) (x : XingRegs) :
    ∃ b m, setBytes v x = { x with bytes := b, info := { x.info with modified := m } } := by
  unfold setBytes
  split
  · exact ⟨x.bytes, x.info.modified, rfl⟩
  · exact ⟨v, true, rfl⟩

/-! One rule per group: a write of the group shows in no register outside it. -/

section
variable (s : State) {r : Reg}

theorem regValue_with_hdr (g : HdrRegs) (h : writes .decode r = false) :
    regValue { s with hdr := g } r = regValue s r := by
  cases r <;> simp [writes, regValue] at h ⊢

theorem regValue_with_compat (c : Compat) (h : writes .compare r = false) :
    regValue { s with compat := c } r = regValue s r := by
  cases r <;> simp [writes, regValue] at h ⊢

theorem regValue_with_confRes (c : ConfRes) (h : writes .confirm r = false) :
    regValue { s with confRes := c } r = regValue s r := by
  cases r <;> simp [writes, regValue] at h ⊢

theorem regValue_with_sync (y : SyncRegs) (h : writes .sync r = false) :
    regValue { s with sync := y } r = regValue s r := by
  cases r <;> simp [writes, regValue] at h ⊢

theorem regValue_with_probeSize (z : Word) (h : writes .probe r = false) :
    regValue { s with probeSize := z } r = regValue s r := by
  cases r <;> simp [writes, regValue] at h ⊢

theorem regValue_with_xing (x : XingRegs) (h : writes .xing r = false) :
    regValue { s with xing := x } r = regValue s r := by
  cases r <;> simp [writes, regValue] at h ⊢

theorem regValue_with_setFrames (v : Word) (h : writes .setFc r = false) :
    regValue { s with xing := setFrames v s.xing } r = regValue s r := by
  obtain ⟨f, m, hx⟩ := setFrames_frame v s.xing
  rw [hx]
  cases r <;> simp [writes, regValue] at h ⊢

theorem regValue_with_setBytes (v : Word) (h : writes .setBc r = false) :
    regValue { s with xing := setBytes v s.xing } r = regValue s r := by
  obtain ⟨b, m, hx⟩ := setBytes_frame v s.xing
  rw [hx]
  cases r <;> simp [writes, regValue] at h ⊢

end

theorem writes_decodeMem (r : Reg) : writes .decodeMem r = writes .decode r := by cases r <;> rfl

theorem writes_status (i : Instr) : writes i .status = true := by cases i <;> rfl

/-- A group write shows in no register outside the command's group. -/
theorem GroupWrite.regValue_eq {s u : State} {i : Instr} {r : Reg} (hw : GroupWrite s i u)
    (h : writes i r = false) : regValue u r = regValue s r := by
  cases hw with
  | unchanged => rfl
  | decode => exact regValue_with_hdr s _ h
  | decodeMem => exact regValue_with_hdr s _ (writes_decodeMem r ▸ h)
  | compare => exact regValue_with_compat s _ h
  | confirm => exact regValue_with_confRes s _ h
  | sync => exact regValue_with_sync s _ h
  | probe => exact regValue_with_probeSize s _ h
  | xing => exact regValue_with_xing s _ h
  | setFc => exact regValue_with_setFrames s _ h
  | setBc => exact regValue_with_setBytes s _ h

/-- A command writes STATUS and the registers of its own group (R53). -/
theorem exec_regValue {i : Instr} {s t : State} {r : Reg} (ht : exec i s = .next t) (h : writes i r = false) :
    regValue t r = regValue s r := by
  obtain ⟨e, u, -, hw, rfl⟩ := exec_groupWrite ht
  have hr : r ≠ .status := by
    rintro rfl
    simp [writes_status] at h
  exact (regValue_complete e u hr).trans (hw.regValue_eq h)

/-- Completion leaves LAST_OP as the issue set it (R122). -/
theorem exec_lastOp {i : Instr} {s t : State} (h : exec i s = .next t) : t.status.lastOp = s.status.lastOp := by
  obtain ⟨_, _, _, _, _, _, _, rfl⟩ := exec_frame h
  rfl

/-- The mutators keep which block is held (R242). -/
theorem exec_setter_keeps_block {i : Instr} {s t : State} (h : exec i s = .next t) (hi : i = .setFc ∨ i = .setBc) :
    t.xing.info.present = s.xing.info.present ∧ t.xing.info.isVbr = s.xing.info.isVbr := by
  obtain ⟨e, u, -, hw, rfl⟩ := exec_groupWrite h
  cases hw with
  | unchanged => exact ⟨rfl, rfl⟩
  | setFc =>
    obtain ⟨f, m, hx⟩ := setFrames_frame s.arg1 s.xing
    simp [hx]
  | setBc =>
    obtain ⟨b, m, hx⟩ := setBytes_frame s.arg1 s.xing
    simp [hx]
  | _ => simp at hi

end Sys2Proof.Machine

namespace Sys2Proof

/-- Settles O11: a command's group write, then a completion, which shows in STATUS alone. -/
theorem commandsWriteOnlyTheirGroup : Obligations.CommandsWriteOnlyTheirGroup := by
  refine ⟨fun i s t h => ⟨fun r hr => Machine.exec_regValue h hr, Machine.exec_setter_keeps_block h,
    Machine.exec_lastOp h, Machine.exec_params h, fun a => by rw [Machine.exec_buf h]⟩, fun s => ?_⟩
  exact ⟨fun r hr => Machine.regValue_complete _ s hr, rfl, rfl, fun a => rfl⟩

end Sys2Proof
end

section
/-! SUPPORT. 10_state.md: the invariant holds at reset and every step keeps it. -/

namespace Sys2Proof.Machine

/-! ### What the results of CONFIRM, PROBE and XING can be -/

/-- A confirmation accepts all of its headers, or fails before the last one with the reason for it (R197). -/
theorem confirmFrom_cases (d : Input) (more k pos : Nat) (first : Option Word) :
    let c := confirmFrom d more k pos first
    (c.ok = true ∧ c.reason = .confirmed ∧ c.nacc = k + more + 1)
    ∨ (c.ok = false ∧ c.reason ≠ .confirmed ∧ c.nacc ≤ k + more) := by
  induction more generalizing k pos first with
  | zero =>
    unfold confirmFrom
    split
    · exact .inr ⟨rfl, by simp, le_rfl⟩
    · split
      · exact .inr ⟨rfl, by simp, le_rfl⟩
      · split
        · exact .inr ⟨rfl, by simp, le_rfl⟩
        · exact .inl ⟨rfl, rfl, rfl⟩
  | succ more ih =>
    have hk : k ≤ k + (more + 1) := Nat.le_add_right ..
    unfold confirmFrom
    split
    · exact .inr ⟨rfl, by simp, hk⟩
    · split
      · exact .inr ⟨rfl, by simp, hk⟩
      · split
        · exact .inr ⟨rfl, by simp, hk⟩
        · split
          · exact .inr ⟨rfl, by simp, by simp only; omega⟩
          · rw [show k + (more + 1) = k + 1 + more by omega]
            exact ih ..

theorem confirm_cases (d : Input) (c : Nat) (hp : 1 ≤ d.params.pConfirm) :
    ((confirm d c).ok = true ∧ (confirm d c).reason = .confirmed ∧ (confirm d c).nacc = d.params.pConfirm)
    ∨ ((confirm d c).ok = false ∧ (confirm d c).reason ≠ .confirmed ∧ (confirm d c).nacc < d.params.pConfirm) := by
  obtain ⟨hok, hr, hn⟩ | ⟨hok, hr, hn⟩ := confirmFrom_cases d (d.params.pConfirm - 1) 0 c none
  · exact .inl ⟨hok, hr, hn.trans (by omega)⟩
  · exact .inr ⟨hok, hr, Nat.lt_of_le_of_lt hn (by omega)⟩

/-- A probe finds no size below the one it starts from, and its next header lies in the buffer (R194). -/
theorem probeFrom_some {d : Input} {o n s z : Nat} {h : Word} (hz : probeFrom d o h n s = some z) :
    s ≤ z ∧ o + z + 4 ≤ d.len := by
  induction n generalizing s with
  | zero => cases hz
  | succ n ih =>
    unfold probeFrom at hz
    split at hz
    · cases hz
    · next next hn =>
      split at hz
      · cases hz
        exact ⟨le_rfl, (hdrAt_eq_some.1 hn).1⟩
      · obtain ⟨hs, hl⟩ := ih hz
        exact ⟨by omega, hl⟩

theorem probe_some {d : Input} {o z : Nat} (hz : probe d o = some z) : 4 ≤ z ∧ o + z + 4 ≤ d.len := by
  unfold probe at hz
  split at hz
  · cases hz
  · exact probeFrom_some hz

/-- PROBE_SIZE is 0 or the size of a frame inside the buffer (R212). -/
theorem probeCommand_size (d : Input) (o : Nat) :
    (probeCommand d o).1 = 0 ∨ (4 ≤ (probeCommand d o).1 ∧ (probeCommand d o).1 ≤ d.len) := by
  unfold probeCommand
  split
  · exact .inl rfl
  · split
    · exact .inl rfl
    · split
      · exact .inl rfl
      · split
        · next size hz =>
          obtain ⟨h4, hl⟩ := probe_some hz
          exact .inr ⟨h4, by simp only; omega⟩
        · exact .inl rfl

theorem xingBlock_present {d : Input} {tag : Word} {p : Nat} {x : XingRegs} (h : xingBlock d tag p = some x) :
    x.info.present = true := by
  simp only [xingBlock, Option.bind_eq_bind, Option.bind_eq_some_iff, Option.pure_def, Option.some.injEq] at h
  obtain ⟨m, -, ⟨fc, p1⟩, -, ⟨bc, p2⟩, -, ⟨toc, p3⟩, -, ⟨q, p4⟩, -, rfl⟩ := h
  rfl

/-- XING clears group X or holds a block (R231). -/
theorem parseXing_zero_or_present (d : Input) (f : Nat) :
    (parseXing d f).1 = .zero ∨ (parseXing d f).1.info.present = true := by
  unfold parseXing
  split
  · exact .inl rfl
  · split
    · exact .inl rfl
    · split
      · exact .inl rfl
      · split
        · exact .inl rfl
        · split
          · next hx => exact .inr (xingBlock_present hx)
          · exact .inl rfl

theorem setFrames_present (v : Word) (x : XingRegs) : (setFrames v x).info.present = x.info.present := by
  obtain ⟨f, m, hx⟩ := setFrames_frame v x
  simp [hx]

theorem setBytes_present (v : Word) (x : XingRegs) : (setBytes v x).info.present = x.info.present := by
  obtain ⟨b, m, hx⟩ := setBytes_frame v x
  simp [hx]

end Sys2Proof.Machine

namespace Sys2Proof

open Machine

/-! ### The parts of the invariant, one rule per update -/

theorem statusInv_of_zero {s : State} (hp : s.pending = none) (hs : s.status = .zero) : StatusInv s := by
  constructor <;> simp [hp, hs, Status.zero, ErrCode.code]

theorem statusInv_issue (w : Word) (s : State) : StatusInv (issue w s) where
  busy_not_done _ := rfl
  busy_no_err _ := rfl
  busy_last_op _ h := by cases h; rfl
  err_written := Nat.zero_le 7

theorem statusInv_complete {e : ErrCode} (he : e.code.toNat ≤ 7) (s : State) : StatusInv (complete e s) where
  busy_not_done h := by cases h
  busy_no_err h := by cases h
  busy_last_op _ h := by cases h
  err_written := he

/-- Every result register 0 (R290). -/
theorem resultInv_of_zero {s : State} (hh : s.hdr = .zero) (hx : s.xing = .zero) (hc : s.confRes = .zero)
    (hz : s.probeSize = 0) : ResultInv s where
  hdr_current := .inl hh
  xing_absent _ := hx
  conf_ok h := by simp [hc, ConfRes.zero] at h
  conf_nacc := by simp [hc, ConfRes.zero]
  conf_confirmed _ := .inr hc
  probe_size := .inl hz

section
variable {s : State}

theorem ResultInv.with_hdr (h : ResultInv s) (w : Word) :
    ResultInv { s with hdr := headerRegs s.params w } :=
  { h with hdr_current := .inr rfl }

theorem ResultInv.with_confirm (h : ResultInv s) (hp : 1 ≤ s.params.pConfirm) (o : Nat) :
    ResultInv { s with confRes := confResOf (confirm (inputOf s) o) } := by
  have hn : (BitVec.ofNat 4 (confirm (inputOf s) o).nacc).toNat ≤ (confirm (inputOf s) o).nacc :=
    Nat.mod_le ..
  obtain ⟨hok, hr, hk⟩ | ⟨hok, hr, hk⟩ := confirm_cases (inputOf s) o hp
  · exact { h with
      conf_ok := fun _ => ⟨hr, by simp only [confResOf, hk]; rfl⟩
      conf_nacc := hn.trans hk.le
      conf_confirmed := fun _ => .inl hok }
  · exact { h with
      conf_ok := fun h' => absurd (h'.symm.trans hok) (by decide)
      conf_nacc := hn.trans hk.le
      conf_confirmed := fun h' => absurd h' hr }

theorem ResultInv.with_probe (h : ResultInv s) (o : Nat) :
    ResultInv { s with probeSize := BitVec.ofNat 32 (probeCommand (inputOf s) o).1 } := by
  refine { h with probe_size := ?_ }
  obtain h0 | ⟨h4, hl⟩ := probeCommand_size (inputOf s) o
  · exact .inl (by rw [h0]; rfl)
  · refine .inr ?_
    have := inputOf_len_lt s
    simp only [BitVec.toNat_ofNat]
    omega

theorem ResultInv.with_xing (h : ResultInv s) {x : XingRegs} (hx : x = .zero ∨ x.info.present = true) :
    ResultInv { s with xing := x } :=
  { h with xing_absent := fun h' => hx.resolve_right (by simp [show x.info.present = false from h']) }

/-- The group writes keep the result part. -/
theorem Machine.GroupWrite.resultInv {u : State} {i : Instr} (hw : GroupWrite s i u) (hp : 1 ≤ s.params.pConfirm)
    (h : ResultInv s) : ResultInv u := by
  cases hw with
  | unchanged => exact h
  | decode => exact h.with_hdr _
  | decodeMem => exact h.with_hdr _
  | compare => exact { h with }
  | confirm => exact h.with_confirm hp _
  | sync => exact { h with }
  | probe => exact h.with_probe _
  | xing => exact h.with_xing (parseXing_zero_or_present ..)
  | setFc present => exact h.with_xing (.inr ((setFrames_present ..).trans present))
  | setBc present => exact h.with_xing (.inr ((setBytes_present ..).trans present))

/-! ### Every turn keeps the invariant -/

theorem Inv.one_le_pConfirm (h : Inv s) : 1 ≤ s.params.pConfirm := by
  have := h.params_legal
  simp only [paramsLegal, Bool.and_eq_true, decide_eq_true_eq] at this
  omega

/-- The invariant speaks neither of CTRL and the operands nor of the model's own fields. -/
theorem Inv.with_unread_fields (h : Inv s) (c : Ctrl) (a b : Word) (ag : List Turn) (v : Word) (n : Nat) :
    Inv { s with ctrl := c, arg0 := a, arg1 := b, agenda := ag, readData := v, freeCount := n } :=
  { h with status := { h.status with }, result := { h.result with } }

theorem Inv.after_complete (h : Inv s) {e : ErrCode} (he : e.code.toNat ≤ 7) : Inv (complete e s) :=
  { h with status := statusInv_complete he s, result := { h.result with } }

theorem Inv.after_issue (h : Inv s) (w : Word) : Inv (issue w s) :=
  { h with status := statusInv_issue w s, result := { h.result with } }

theorem Inv.after_resetEvent (h : Inv s) : Inv (resetEvent s) :=
  { h with
    len_cap := Nat.zero_le _
    status := statusInv_of_zero rfl rfl
    result := resultInv_of_zero rfl rfl rfl rfl }

theorem Inv.clear_done (h : Inv s) : Inv { s with status := { s.status with done := false } } :=
  { h with status := { h.status with busy_not_done := fun _ => rfl }, result := { h.result with } }

theorem Inv.with_bufLen (h : Inv s) (v : Word) : Inv { s with bufLen := clampLen s.params v } :=
  { h with
    len_cap := (Nat.mod_le ..).trans (Nat.min_le_right ..)
    status := { h.status with }
    result := { h.result with } }

theorem Inv.put (h : Inv s) {o : Nat} (ho : o < s.params.bufCap) (b : Byte) : Inv { s with buf := s.buf.put o b } :=
  { h with
    buf_wf := Memory.put_wf h.buf_wf o b
    buf_cap := fun _ hc => (Memory.mem_put hc).elim (fun he => he ▸ ho) (h.buf_cap _)
    status := { h.status with }
    result := { h.result with } }

theorem Inv.after_writeRegIdle (h : Inv s) (r : Reg) (v : Word) : Inv (writeRegIdle r v s) := by
  cases r with
  | cmd => exact h.after_issue v
  | status =>
    simp only [writeRegIdle]
    split
    · exact h.clear_done
    · exact h
  | ctrl => exact h.with_unread_fields ..
  | arg0 => exact h.with_unread_fields ..
  | arg1 => exact h.with_unread_fields ..
  | bufLen => exact h.with_bufLen v
  | _ => exact h

theorem Inv.after_writeReg (h : Inv s) (o : Nat) (v : Word) : Inv (writeReg o v s) := by
  unfold writeReg
  split
  · exact h
  · split
    · exact h.after_writeRegIdle ..
    · exact h

theorem Inv.after_readReg (h : Inv s) (o : Nat) : Inv (readReg o s) := by
  obtain ⟨v, n, hr⟩ := readReg_frame o s
  exact hr ▸ h.with_unread_fields ..

theorem Inv.after_hostStep (h : Inv s) {m : HostStep} {t : State} (ht : hostStep m s = .next t) : Inv t := by
  obtain ⟨o, -, -, -, rfl⟩ | ⟨o, v, -, -, -, rfl⟩ | ⟨o, b, -, -, ho, rfl⟩ := hostStep_cases ht
  · exact h.after_readReg o
  · exact h.after_writeReg o v
  · exact h.put ho b

theorem Inv.after_exec (h : Inv s) {i : Instr} {t : State} (ht : exec i s = .next t) : Inv t := by
  obtain ⟨e, u, he, hw, htu⟩ := exec_groupWrite ht
  have hs : StatusInv t := htu ▸ statusInv_complete (errorCodes_le i _ he) u
  have hr : ResultInv t := htu ▸ { hw.resultInv h.one_le_pConfirm h.result with }
  obtain ⟨_, _, _, _, _, _, _, rfl⟩ := exec_frame ht
  exact { h with status := hs, result := hr }

theorem Inv.after_engineTurn (h : Inv s) {t : State} (ht : engineTurn s = .next t) : Inv t := by
  obtain ⟨-, rfl⟩ | ⟨_, _, -, -, hx⟩ | ⟨_, _, -, -, rfl⟩ := engineTurn_cases ht
  · exact h
  · exact h.after_exec hx
  · exact h.after_complete (by decide)

theorem Inv.after_step (h : Inv s) {t : State} (ht : step s = .next t) : Inv t := by
  have ha : Inv { s with agenda := s.agenda.tail } := h.with_unread_fields ..
  obtain ⟨-, he⟩ | ⟨_, -, hh⟩ | ⟨-, rfl⟩ := step_cases ht
  · exact ha.after_engineTurn he
  · exact ha.after_hostStep hh
  · exact ha.after_resetEvent

end

/-- Settles O57: no command is pending, every register is 0 and the buffer is empty. -/
theorem invariantAtReset : Obligations.InvariantAtReset where
  params_legal := by decide
  len_cap := Nat.zero_le _
  buf_wf := .nil
  buf_cap := by simp [State.reset]
  status := statusInv_of_zero rfl rfl
  result := resultInv_of_zero rfl rfl rfl rfl

/-- Settles O58: the engine's turn, a step of the host and a reset each keep the invariant. -/
theorem everyStepKeepsTheInvariant : Obligations.EveryStepKeepsTheInvariant :=
  fun _ _ h ht => Inv.after_step h ht

end Sys2Proof
end

section
/-! SUPPORT. 10_state.md: the registers as the host reads and writes them. -/

namespace Sys2Proof.Machine

/-! ### The bits of the field registers -/

theorem Status.toWord_done (st : Status) (b : Bool) : (st.toWord b).getLsbD 1 = st.done := by
  simp [Status.toWord, BitVec.getElem_append (m := 1)]

theorem Ctrl.toWord_ie (c : Ctrl) : c.toWord.getLsbD 0 = c.ie := by
  simp [Ctrl.toWord, BitVec.getElem_append (m := 1)]

/-- STATUS with DONE = 1 and BUSY = 0, in the form of 95_test_vectors.md, bit by bit. -/
theorem Status.toWord_completed (op : BitVec 4) (e : ErrCode) :
    Status.toWord ⟨true, e, op⟩ false = (op.setWidth 32 <<< 8) ||| (e.code.setWidth 32 <<< 4) ||| 0x2#32 := by
  ext i hi
  interval_cases i <;>
    simp [Status.toWord, BitVec.getElem_append (m := 1), BitVec.getElem_append (m := 2), BitVec.getElem_append (m := 4)]

/-- DONE is bit 1, so clearing it clears that bit and no other. -/
theorem Status.toWord_clear_done (st : Status) (b : Bool) :
    Status.toWord { st with done := false } b = st.toWord b &&& ~~~0x2#32 := by
  ext i hi
  interval_cases i <;> simp [Status.toWord, BitVec.getElem_append (m := 1)]

/-- CTRL written with `v` reads `v & 1` (R23). -/
theorem Ctrl.toWord_written (v : Word) : Ctrl.toWord ⟨v.getLsbD 0⟩ = v &&& 1#32 := by
  ext i hi
  by_cases h0 : i = 0 <;> simp [Ctrl.toWord, BitVec.getElem_append (m := 1), h0]

/-- The one-bit fields of HDR_INFO (R28). -/
theorem HdrInfo.toWord_bits (i : HdrInfo) :
    i.toWord.getLsbD 0 = i.valid ∧ i.toWord.getLsbD 1 = i.free ∧ i.toWord.getLsbD 2 = i.syncOk
    ∧ i.toWord.getLsbD 3 = i.verOk ∧ i.toWord.getLsbD 4 = i.layerOk ∧ i.toWord.getLsbD 5 = i.brOk
    ∧ i.toWord.getLsbD 6 = i.srOk ∧ i.toWord.getLsbD 7 = i.emphOk ∧ i.toWord.getLsbD 8 = i.modeOk
    ∧ i.toWord.getLsbD 9 = i.geomDef ∧ i.toWord.getLsbD 12 = i.mono := by
  simp [HdrInfo.toWord, BitVec.getElem_append (m := 1), BitVec.getElem_append (m := 2)]

theorem HdrInfo.toWord_layerNum (i : HdrInfo) : i.toWord.extractLsb 11 10 = i.layerNum := by
  ext j hj
  simp [HdrInfo.toWord, BitVec.getLsbD_append (m := 1), BitVec.getLsbD_append (m := 2), hj]

theorem HdrInfo.toWord_reserved (i : HdrInfo) : i.toWord.extractLsb 31 13 = 0 := by
  ext j hj
  simp [HdrInfo.toWord, BitVec.getLsbD_append (m := 1), BitVec.getLsbD_append (m := 2), show ¬ 3 + j ≤ 1 by omega,
    show 3 + j - 2 ≠ 0 by omega]

theorem layerNum_eq (h : Word) : layerNum h = if layerOk h then 4 - (layer h).toNat else 0 := by
  by_cases hl : layer h = 0b00#2 <;> simp [layerNum, layerOk, hl]

theorem layerNum_lt (h : Word) : layerNum h < 4 := by
  unfold layerNum
  split
  · decide
  · next hl =>
    have : (layer h).toNat ≠ 0 := fun h0 => hl (BitVec.eq_of_toNat_eq h0)
    omega

/-! ### Register accesses as steps -/

section
variable {s : State} {o : Nat} {v : Word} {rest : List Turn}

theorem busy_eq_false : busy s = false ↔ s.pending = none := by simp [busy]

theorem step_read (h : s.agenda = .host (.read o 32) :: rest) (h4 : o % 4 = 0) (hw : o < 256) :
    step s = .next (readReg o { s with agenda := rest }) := by
  simp only [step, h, takeTurn, hostStep]
  exact registerAccess_inside _ h4 hw

theorem step_write (h : s.agenda = .host (.write o 32 v) :: rest) (h4 : o % 4 = 0) (hw : o < 256) :
    step s = .next (writeReg o v { s with agenda := rest }) := by
  simp only [step, h, takeTurn, hostStep]
  exact registerAccess_inside _ h4 hw

theorem writeReg_offset_idle (hb : busy s = false) (r : Reg) (v : Word) :
    writeReg r.offset v s = writeRegIdle r v s := by
  simp [writeReg, hb]

/-- A write of a register while idle. -/
theorem step_write_idle (r : Reg) (hb : busy s = false) (h : s.agenda = .host (.write r.offset 32 v) :: rest) :
    step s = .next (writeRegIdle r v { s with agenda := rest }) := by
  obtain ⟨h4, hw⟩ := r.offset_inside
  exact (step_write h h4 hw).trans (congrArg _ (writeReg_offset_idle (s := { s with agenda := rest }) hb r v))

theorem readReg_unmapped (h : 0x68 ≤ o) (s : State) : readReg o s = { s with readData := 0 } := by
  simp [readReg, Reg.ofOffset_unmapped h]

theorem writeReg_unmapped (h : 0x68 ≤ o) (v : Word) (s : State) : writeReg o v s = s := by
  simp [writeReg, Reg.ofOffset_unmapped h]

theorem writeRegIdle_result {r : Reg} (hr : r.isResult = true) (v : Word) (s : State) : writeRegIdle r v s = s := by
  cases r <;> simp [Reg.isResult, writeRegIdle] at hr ⊢

end

/-! One rule per register the host can write: the write, with the rest of the agenda left, shows in no other
register. -/

section
variable (s : State) {r : Reg} (ag : List Turn)

theorem regValue_with_status (st : Status) (h : r ≠ .status) :
    regValue { s with status := st, agenda := ag } r = regValue s r := by
  cases r <;> simp [regValue] at h ⊢

theorem regValue_with_ctrl (c : Ctrl) (h : r ≠ .ctrl) :
    regValue { s with ctrl := c, agenda := ag } r = regValue s r := by
  cases r <;> simp [regValue, statusWord, busy] at h ⊢

theorem regValue_with_arg0 (v : Word) (h : r ≠ .arg0) :
    regValue { s with arg0 := v, agenda := ag } r = regValue s r := by
  cases r <;> simp [regValue, statusWord, busy] at h ⊢

theorem regValue_with_arg1 (v : Word) (h : r ≠ .arg1) :
    regValue { s with arg1 := v, agenda := ag } r = regValue s r := by
  cases r <;> simp [regValue, statusWord, busy] at h ⊢

theorem regValue_with_bufLen (l : Word) (h : r ≠ .bufLen) :
    regValue { s with bufLen := l, agenda := ag } r = regValue s r := by
  cases r <;> simp [regValue, statusWord, busy] at h ⊢

/-- What a host write can change shows in no result register. -/
theorem regValue_result_of_host_write (p : Option Word) (st : Status) (c : Ctrl) (a b l : Word)
    (h : r.isResult = true) :
    regValue { s with pending := p, status := st, ctrl := c, arg0 := a, arg1 := b, bufLen := l } r
      = regValue s r := by
  cases r <;> simp [regValue, Reg.isResult] at h ⊢

end

theorem clampLen_toNat (p : Params) (v : Word) : (clampLen p v).toNat = min v.toNat p.bufCap :=
  Nat.mod_eq_of_lt ((Nat.min_le_left ..).trans_lt v.isLt)

end Sys2Proof.Machine

namespace Sys2Proof

open Machine

/-- Settles O14: STATUS after a completion has DONE = 1 and BUSY = 0, and LAST_OP as the issue set it. -/
theorem completedStatusWord : Obligations.CompletedStatusWord := by
  intro i s t h
  rw [← exec_lastOp h]
  obtain ⟨e, u, -, -, rfl⟩ := exec_groupWrite h
  exact Status.toWord_completed ..

/-- Settles O16: no register lies at these offsets. -/
theorem unmappedOffsetsReadZeroAndIgnoreWrites : Obligations.UnmappedOffsetsReadZeroAndIgnoreWrites := by
  intro s o v rest h4 hlo hhi
  have hw : o < 256 := by omega
  exact ⟨fun h => (step_read h h4 hw).trans (congrArg _ (readReg_unmapped hlo _)),
    fun h => (step_write h h4 hw).trans (congrArg _ (writeReg_unmapped hlo v _))⟩

/-- Settles O19: the idle write of ARG0 or ARG1 is one field update, that of a result register none. -/
theorem idleWritesStoreOperandsOnly : Obligations.IdleWritesStoreOperandsOnly := by
  intro s r v rest hb ha
  have hs := step_write_idle r hb ha
  refine ⟨?_, fun hr => hs.trans (congrArg _ (writeRegIdle_result hr v _))⟩
  rintro (rfl | rfl)
  · exact ⟨_, hs, rfl, fun q hq => regValue_with_arg0 s rest v hq, fun _ => rfl, busy_eq_false.1 hb⟩
  · exact ⟨_, hs, rfl, fun q hq => regValue_with_arg1 s rest v hq, fun _ => rfl, busy_eq_false.1 hb⟩

/-- Settles O20: the minimum with a 32-bit value fits 32 bits, so BUF_LEN holds it exactly. -/
theorem bufLenWriteClamps : Obligations.BufLenWriteClamps := fun s v rest _ hb ha =>
  ⟨_, step_write_idle .bufLen hb ha, clampLen_toNat s.params v, fun _ hq => regValue_with_bufLen s rest _ hq,
    fun _ => rfl⟩

/-- Settles O21: the one stored bit is bit 0 of the word written. -/
theorem ctrlHoldsInterruptEnableOnly : Obligations.CtrlHoldsInterruptEnableOnly := fun s v rest hb ha =>
  ⟨_, step_write_idle .ctrl hb ha, Ctrl.toWord_written v, fun _ hq => regValue_with_ctrl s rest _ hq, fun _ => rfl⟩

/-- Settles O22: with bit 1 set DONE is cleared, which is bit 1 of STATUS; without it the write does nothing. -/
theorem statusWriteClearsDoneOnly : Obligations.StatusWriteClearsDoneOnly := by
  intro s v rest hb ha
  refine ⟨_, step_write_idle .status hb ha, ?_⟩
  simp only [writeRegIdle]
  split
  · exact ⟨Status.toWord_clear_done s.status (busy s), fun _ hq => regValue_with_status s rest _ hq, fun _ => rfl⟩
  · exact ⟨rfl, fun q _ => regValue_host s q rest s.readData s.freeCount s.buf, fun _ => rfl⟩

/-- Settles O23: a read changes what the host has read, a write the six fields of `writeReg_frame`, a buffer write
the buffer; no result register shows any of them. -/
theorem hostNeverChangesAResultRegister : Obligations.HostNeverChangesAResultRegister := by
  intro s t m r ht hr
  obtain ⟨o, -, -, -, rfl⟩ | ⟨o, v, -, -, -, rfl⟩ | ⟨o, b, -, -, -, rfl⟩ := hostStep_cases ht
  · obtain ⟨v, n, h⟩ := readReg_frame o s
    exact h ▸ regValue_host s r s.agenda v n s.buf
  · obtain ⟨p, st, c, a, b, l, h⟩ := writeReg_frame o v s
    exact h ▸ regValue_result_of_host_write s p st c a b l hr
  · exact regValue_host s r s.agenda s.readData s.freeCount _

/-- Settles O27: DONE is bit 1 of STATUS and IE is bit 0 of CTRL. -/
theorem irqIsDoneAndEnabled : Obligations.IrqIsDoneAndEnabled := by
  intro s
  simp only [irq, regValue, statusWord, Status.toWord_done, Ctrl.toWord_ie]

/-- Settles O38: each bit of the register is its field, and each field its check on the raw bits. -/
theorem hdrInfoBits : Obligations.HdrInfoBits := by
  intro p h w
  have hfree : (valid p h && !isFree h) = (valid p h && !(valid p h && isFree h)) := by
    cases valid p h <;> rfl
  have hlayer : (BitVec.ofNat 2 (layerNum h)).toNat = if layerOk h then 4 - (layer h).toNat else 0 :=
    (Nat.mod_eq_of_lt (layerNum_lt h)).trans (layerNum_eq h)
  simp only [w, HdrInfo.toWord_bits, HdrInfo.toWord_layerNum, HdrInfo.toWord_reserved]
  exact ⟨rfl, rfl, rfl, rfl, rfl, rfl, rfl, rfl, rfl, hfree, hlayer, rfl, trivial⟩

end Sys2Proof
end

section
/-! SUPPORT. 20_memory.md: the host's moves on the register window and on the buffer. -/

namespace Sys2Proof.Machine

/-! ### The buffer in canonical form -/

/-- In canonical form an offset is listed at most once, so what is read there is what is listed. -/
theorem Memory.get_eq_some_iff_mem {m : Memory} (h : m.wf) {a : Nat} {b : Byte} :
    m.get a = some b ↔ (a, b) ∈ m := by
  induction m with
  | nil => simp
  | cons e m ih =>
    obtain ⟨c, x⟩ := e
    obtain ⟨hc, hm⟩ := List.pairwise_cons.1 h
    by_cases hca : c = a
    · subst hca
      have hnot : (c, b) ∉ m := fun hmem => lt_irrefl c (hc _ hmem)
      simp [Memory.get, hnot, eq_comm]
    · simp [Memory.get, hca, Ne.symm hca, ih hm]

/-- Both lists rise strictly and have the same entries, so they are the same list. -/
theorem Memory.ext_get {m m' : Memory} (h : m.wf) (h' : m'.wf) (hget : ∀ a, m.get a = m'.get a) : m = m' := by
  have : Std.Irrefl fun x y : Host.Cell => x.1 < y.1 := ⟨fun x => lt_irrefl x.1⟩
  refine List.Pairwise.eq_of_mem_iff h h' fun ⟨a, b⟩ => ?_
  rw [← get_eq_some_iff_mem h, ← get_eq_some_iff_mem h', hget]

/-! ### The host's moves as steps -/

section
variable {s : State} {o w : Nat} {b : Byte} {rest : List Turn}

/-- A turn of the host's is its step. -/
theorem step_host {m : HostStep} (h : s.agenda = .host m :: rest) :
    step s = hostStep m { s with agenda := rest } := by
  simp [step, h, takeTurn]

theorem registerAccess_not_word (n : State) (h : w ≠ 32 ∨ o % 4 ≠ 0) :
    registerAccess o w n = .refused .notAWordAccess := by
  have hform : wordAccess o w = false := by simpa [wordAccess, imp_iff_not_or] using h
  simp [registerAccess, hform]

theorem registerAccess_outside (n : State) (h : o % 4 = 0) (hw : 256 ≤ o) :
    registerAccess o 32 n = .fault .noSuchRegister := by
  simp [registerAccess, wordAccess, registerWindow, h, hw]

theorem bufferWrite_busy (hb : busy s = true) : bufferWrite o b s = .refused .bufferWriteWhileBusy := by
  simp [bufferWrite, hb]

theorem bufferWrite_outside (hb : busy s = false) (ho : s.params.bufCap ≤ o) :
    bufferWrite o b s = .fault .noSuchBufferByte := by
  simp [bufferWrite, hb, ho]

/-- The access to a register that a host's read or write makes, whatever it would go on with. -/
theorem step_registerAccess {v : Word}
    (h : s.agenda = .host (.read o w) :: rest ∨ s.agenda = .host (.write o w v) :: rest) :
    ∃ n, step s = registerAccess o w n := by
  rcases h with h | h
  · exact ⟨_, step_host h⟩
  · exact ⟨_, step_host h⟩

theorem step_bufWrite_idle (h : s.agenda = .host (.bufWrite o b) :: rest) (hb : busy s = false)
    (ho : o < s.params.bufCap) : step s = .next { s with agenda := rest, buf := s.buf.put o b } :=
  (step_host h).trans (bufferWrite_eq_next.2 ⟨hb, ho, rfl⟩)

theorem readReg_offset_idle (hb : busy s = false) (r : Reg) :
    readReg r.offset s = { s with readData := regValue s r } := by
  simp [readReg, hb]

end

end Sys2Proof.Machine

namespace Sys2Proof

open Machine

/-- Settles O25: the step writes one byte of the buffer, and no register shows the buffer. -/
theorem bufferWriteChangesOneByte : Obligations.BufferWriteChangesOneByte := fun s o b rest hb ho ha =>
  ⟨_, step_bufWrite_idle ha hb ho, Memory.byte_put_same s.buf o b, fun _ hne => Memory.byte_put_other s.buf b hne,
    fun r => regValue_host s r rest s.readData s.freeCount _, rfl⟩

/-- Settles O60: a buffer in canonical form is determined by what is read from it. -/
theorem equalBuffersAreEqualData : Obligations.EqualBuffersAreEqualData :=
  fun _ _ h h' hget => Memory.ext_get h h' hget

/-- Settles O17: a read changes what the host has read and the count of draws alone, neither of which is the MFD's. -/
theorem readsHaveNoSideEffect : Obligations.ReadsHaveNoSideEffect := by
  intro s o rest h4 hw ha
  obtain ⟨v, n, hframe⟩ := readReg_frame o { s with agenda := rest }
  have hidle : ∀ r : Reg, busy s = false → r.offset = o → v = regValue s r ∧ n = s.freeCount := by
    rintro r hb rfl
    have hread := readReg_offset_idle (s := { s with agenda := rest }) hb r
    rw [hframe] at hread
    have hval : v = regValue { s with agenda := rest } r := congrArg State.readData hread
    have hcount : n = s.freeCount := congrArg State.freeCount hread
    exact ⟨hval.trans (regValue_host s r rest s.readData s.freeCount s.buf), hcount⟩
  exact ⟨_, (step_read ha h4 hw).trans (congrArg _ hframe), fun r => regValue_host s r rest v n s.buf, rfl, rfl, rfl,
    rfl, hidle⟩

/-- Settles O24: each test of a register access and of a buffer write stops the step by its own name. -/
theorem movesOutsideTheInterfaceStop : Obligations.MovesOutsideTheInterfaceStop := by
  refine fun s o width v b rest => ⟨fun ha => ?_, fun ha => ⟨fun hb => ?_, fun hb ho => ?_⟩⟩
  · obtain ⟨n, hn⟩ := step_registerAccess ha
    rw [hn]
    refine ⟨registerAccess_not_word n, ?_⟩
    rintro rfl
    exact registerAccess_outside n
  · exact (step_host ha).trans (bufferWrite_busy hb)
  · exact (step_host ha).trans (bufferWrite_outside hb ho)

end Sys2Proof
end

section
/-! SUPPORT. 30_encoding.md: the command word, the host's `RUN`, and the header bits no check reads. -/

namespace Sys2Proof

/-! ### Legal and illegal command words (R101, R102) -/

theorem legalCommandWord_encode (i : Instr) : legalCommandWord (encode i) = true := by
  cases i
  exacts [Laws.EncodeLegal.nop, Laws.EncodeLegal.decode, Laws.EncodeLegal.decodeMem, Laws.EncodeLegal.compare,
    Laws.EncodeLegal.confirm, Laws.EncodeLegal.sync, Laws.EncodeLegal.probe, Laws.EncodeLegal.xing,
    Laws.EncodeLegal.setFc, Laws.EncodeLegal.setBc]

theorem reservedBitsZero_iff {w : Word} : reservedBitsZero w = true ↔ w.extractLsb 31 4 = 0 := by
  simp [reservedBitsZero]

/-- The two checks of R102 leave the ten values of R101. -/
theorem toNat_lt_of_legalCommandWord {w : Word} (h : legalCommandWord w = true) : w.toNat < 10 := by
  obtain ⟨hreserved, hop⟩ : w.toNat / 16 % 2 ^ 28 = 0 ∧ w.toNat % 16 ≤ 9 := by
    simpa [legalCommandWord, reservedBitsZero, opcodeAssigned, BitVec.toNat_eq, BitVec.le_def,
      Nat.shiftRight_eq_div_pow] using h
  omega

/-- Each value below 10 is the word of a row of the opcode map. -/
theorem exists_row_of_toNat_lt : ∀ n < 10, ∃ r ∈ opcodeTable, r.pattern.toNat = n := by decide

/-- The words that pass the two checks of R102 are the words of the commands. -/
theorem legalCommandWord_iff {w : Word} : legalCommandWord w = true ↔ ∃ i, w = encode i := by
  constructor
  · intro h
    obtain ⟨r, hr, hw⟩ := exists_row_of_toNat_lt w.toNat (toNat_lt_of_legalCommandWord h)
    exact ⟨r.command, (BitVec.eq_of_toNat_eq hw).symm.trans (opcodeTable_encode r hr)⟩
  · rintro ⟨i, rfl⟩
    exact legalCommandWord_encode i

/-- A word fails the two checks of R102 exactly when one of its two kinds of illegal bits is there. -/
theorem legalCommandWord_eq_false {w : Word} :
    legalCommandWord w = false ↔ w.extractLsb 31 4 ≠ 0 ∨ 0xA ≤ (w.extractLsb 3 0).toNat := by
  have hop : opcodeAssigned w = false ↔ 0xA ≤ (w.extractLsb 3 0).toNat := by
    simp [opcodeAssigned, BitVec.lt_def, Nat.succ_le_iff]
  rw [legalCommandWord, Bool.and_eq_false_iff, hop, ← Bool.not_eq_true, reservedBitsZero_iff]

/-! ### The decoder -/

theorem decodeWord_encode (i : Instr) : decodeWord (encode i) = .ok i := by cases i <;> rfl

/-- The row the decoder finds is that of the one command whose word `w` is. -/
theorem eq_encode_of_find?_eq_some {w : Word} {r : OpcodeRow}
    (h : opcodeTable.find? (fun r => r.matchesWord w) = some r) : w = encode r.command :=
  (matchesWord_iff (List.mem_of_find?_eq_some h) w).1
    (List.find?_some (p := fun r : OpcodeRow => r.matchesWord w) h)

theorem decodeWord_eq_ok_iff {w : Word} {i : Instr} : decodeWord w = .ok i ↔ w = encode i := by
  constructor
  · intro h
    unfold decodeWord at h
    split at h
    · next r hr =>
      cases h
      exact eq_encode_of_find?_eq_some hr
    · split at h <;> cases h
  · rintro rfl
    exact decodeWord_encode i

/-- A word that fails a check of R102 is no command, and the error says whether bits 31:4 are to blame. -/
theorem decodeWord_of_illegal {w : Word} (h : legalCommandWord w = false) :
    decodeWord w = .error (if reservedBitsZero w then .illegalOpcode else .reservedBits) := by
  have hnot : ¬ ∃ i, w = encode i := by simp [← legalCommandWord_iff, h]
  unfold decodeWord
  split
  · next r hr => exact absurd ⟨_, eq_encode_of_find?_eq_some hr⟩ hnot
  · split <;> rfl

theorem decodeWord_eq_error_iff {w : Word} {e : DecodeError} : decodeWord w = .error e ↔
    legalCommandWord w = false ∧ (if reservedBitsZero w then .illegalOpcode else .reservedBits) = e := by
  cases hw : legalCommandWord w
  · simp [decodeWord_of_illegal hw]
  · obtain ⟨i, rfl⟩ := legalCommandWord_iff.1 hw
    simp [decodeWord_encode]

theorem tableWord_toNat (w : Word) : tableWord 32 w.toNat = w :=
  BitVec.eq_of_toNat_eq (by simp [tableWord, Nat.mod_eq_of_lt w.isLt])

/-- A 32-bit row of the opcode table is read as the command word it is (R103). -/
theorem decodeTableWord_toNat (w : Word) : decodeTableWord 32 w.toNat = (decodeWord w).toOption := by
  unfold decodeTableWord
  rw [if_pos (Nat.mod_lt _ (by decide)), tableWord_toNat]
  cases decodeWord w <;> rfl

end Sys2Proof

namespace Sys2Proof.Machine

variable {s t : State} {w : Word}

/-! ### The engine's turn as a step -/

theorem step_engine (h : nextTurn s = .engine) : step s = engineTurn { s with agenda := s.agenda.tail } := by
  rw [step_eq, show s.agenda.headD .engine = .engine from h]
  rfl

theorem engineTurn_of_ok {i : Instr} (hp : s.pending = some w) (hd : decodeWord w = .ok i) :
    engineTurn s = exec i s := by
  simp [engineTurn, fetchCommand, hp, hd]

theorem engineTurn_of_illegal (hp : s.pending = some w) (h : legalCommandWord w = false) :
    engineTurn s = .next (illegalCommand s) := by
  simp [engineTurn, fetchCommand, hp, decodeWord_of_illegal h]

/-! ### What a command answers -/

/-- Every command completes: none faults and none is refused. -/
theorem exec_completes (i : Instr) (s : State) : ∃ t, exec i s = .next t := by
  cases i with
  | nop | decode | compare | confirm | sync | probe | xing => exact ⟨_, rfl⟩
  | decodeMem =>
    simp only [exec, execDecodeMem]
    split <;> exact ⟨_, rfl⟩
  | setFc =>
    simp only [exec, execSetFc]
    split <;> exact ⟨_, rfl⟩
  | setBc =>
    simp only [exec, execSetBc]
    split <;> exact ⟨_, rfl⟩

theorem exec_idle_done {i : Instr} (h : exec i s = .next t) : busy t = false ∧ t.status.done = true := by
  obtain ⟨_, _, _, _, _, _, _, rfl⟩ := exec_frame h
  exact ⟨rfl, rfl⟩

theorem exec_agenda {i : Instr} (h : exec i s = .next t) : t.agenda = s.agenda := by
  obtain ⟨_, _, _, _, _, _, _, rfl⟩ := exec_frame h
  rfl

/-- The turns to come go through a command unread and unchanged. -/
theorem exec_with_agenda {i : Instr} (h : exec i s = .next t) (ag : List Turn) :
    exec i { s with agenda := ag } = .next { t with agenda := ag } := by
  have hfields := exec_host_fields h ag s.readData s.freeCount
  obtain ⟨_, _, _, _, _, _, _, rfl⟩ := exec_frame h
  exact hfields

/-! ### Polling STATUS (R105) -/

/-- STATUS of a command just issued: BUSY = 1, DONE = 0, ERR = 0 (R120). -/
theorem Status.toWord_issued :
    ∀ op : BitVec 4, Status.toWord ⟨false, .none, op⟩ true = 0#20 ++ op ++ 0#7 ++ 1#1 := by decide

/-- A read of a register that is no result register is specified whether or not a command runs (R124). -/
theorem readReg_offset_of_not_result {r : Reg} (hr : r.isResult = false) (s : State) :
    readReg r.offset s = { s with readData := regValue s r } := by
  simp [readReg, hr]

/-- A poll reads STATUS and changes nothing else. -/
theorem step_poll {rest : List Turn} (h : s.agenda = rdTurn Reg.status.offset :: rest) :
    step s = .next { s with agenda := rest, readData := regValue s .status } := by
  obtain ⟨h4, hw⟩ := Reg.status.offset_inside
  exact (step_read h h4 hw).trans (congrArg _ (readReg_offset_of_not_result rfl { s with agenda := rest }))

/-- Polls with nothing between them all read the same STATUS. -/
theorem run_polls (n k : Nat) {rest : List Turn}
    (h : s.agenda = List.replicate n (rdTurn Reg.status.offset) ++ rest) :
    run (n + k) s
      = run k { s with agenda := rest, readData := if n = 0 then s.readData else regValue s .status } := by
  induction n generalizing s with
  | zero =>
    obtain rfl : s.agenda = rest := h
    simp
  | succ n ih =>
    have hpoll := step_poll (h.trans (by rw [List.replicate_succ, List.cons_append]))
    rw [Nat.add_right_comm, run_succ hpoll, ih rfl]
    cases n <;> rfl

/-- The completion the engine's turn gives, and the poll that reads it. -/
theorem run_completion_poll {i : Instr} (ha : s.agenda = [.engine, rdTurn Reg.status.offset])
    (hp : s.pending = some (encode i)) (ht : exec i { s with agenda := [] } = .next t) :
    run 2 s = .next { t with readData := regValue t .status } := by
  have hexec := engineTurn_of_ok (s := { s with agenda := [rdTurn Reg.status.offset] }) hp (decodeWord_encode i)
  have hengine : step s = .next { t with agenda := [rdTurn Reg.status.offset] } := by
    rw [step_engine (by simp [nextTurn, ha]), ha]
    exact hexec.trans (exec_with_agenda ht _)
  have hagenda : t.agenda = [] := exec_agenda ht
  rw [run_succ hengine, run_succ (step_poll rfl)]
  exact congrArg (fun ag => Host.Outcome.next { t with agenda := ag, readData := regValue t .status }) hagenda.symm

/-- `WAIT`: the polls that read BUSY = 1, then the completion and its poll. -/
theorem run_wait {polls : Nat} {i : Instr} (ha : s.agenda = waitTurns polls) (hp : s.pending = some (encode i))
    (ht : exec i { s with agenda := [], readData := if polls = 0 then s.readData else regValue s .status } = .next t) :
    run (polls + 2) s = .next { t with readData := regValue t .status } :=
  (run_polls polls 2 ha).trans (run_completion_poll rfl hp ht)

/-! ### The header bits a check reads -/

section
variable {a b m : Word}

theorem getLsbD_eq_of_masked (h : (a ^^^ b) &&& m = 0) {j : Nat} (hm : m.getLsbD j = true) :
    a.getLsbD j = b.getLsbD j := by
  simpa [hm] using congrArg (·.getLsbD j) h

/-- Words that agree under a mask agree in every field the mask covers. -/
theorem extractLsb_eq_of_masked (h : (a ^^^ b) &&& m = 0) {hi lo : Nat}
    (hm : m.extractLsb hi lo = BitVec.allOnes (hi - lo + 1)) : a.extractLsb hi lo = b.extractLsb hi lo := by
  ext j hj
  have hbit : m.getLsbD (lo + j) = true := by simpa [hj] using congrArg (·.getLsbD j) hm
  simpa [hj] using getLsbD_eq_of_masked h hbit

end

/-- Validity reads seven fields of the header (R141). -/
theorem valid_congr (p : Params) {a b : Word} (hsync : syncField a = syncField b) (hver : version a = version b)
    (hlayer : layer a = layer b) (hbr : brIdx a = brIdx b) (hsr : srIdx a = srIdx b) (hmode : mode a = mode b)
    (hemph : emph a = emph b) : valid p a = valid p b := by
  have hbit : a.getLsbD 20 = b.getLsbD 20 := by simpa [version] using congrArg (·.getLsbD 1) hver
  have hmono : isMono a = isMono b := congrArg (· == 0b11#2) hmode
  have hentry : l2ModeEntry p a = l2ModeEntry p b := by rw [l2ModeEntry, l2ModeEntry, hmono, hbr]
  simp only [valid, syncOk, verOk, layerOk, brOk, srOk, emphOk, modeOk, isMpeg1Layer2, hsync, hbit, hver, hlayer, hbr,
    hsr, hemph, hentry]

end Sys2Proof.Machine

namespace Sys2Proof

open Machine

/-- Settles O1: each word is its command's encoding. -/
theorem specWordsDecode : Obligations.SpecWordsDecode :=
  ⟨decodeWord_encode .nop, decodeWord_encode .decode, decodeWord_encode .decodeMem, decodeWord_encode .compare,
    decodeWord_encode .confirm, decodeWord_encode .sync, decodeWord_encode .probe, decodeWord_encode .xing,
    decodeWord_encode .setFc, decodeWord_encode .setBc⟩

/-- Settles O2: the row the decoder finds is the command's, and a 32-bit table word is that command word. -/
theorem decodeAndEncodeAgree : Obligations.DecodeAndEncodeAgree := by
  refine ⟨fun w i => decodeWord_eq_ok_iff, fun i _ => ?_⟩
  rw [decodeTableWord_toNat, decodeWord_encode]
  rfl

/-- Settles O3: the words that are no command are those that fail a check of R102, and the completion of such a
word sets STATUS alone. -/
theorem illegalWordsCompleteWithIllegalCommand : Obligations.IllegalWordsCompleteWithIllegalCommand := by
  refine ⟨fun w => ?_, fun w => ?_, fun s w hp ha hw => ?_⟩
  · by_cases hz : w.extractLsb 31 4 = 0#28 <;>
      simp [decodeWord_eq_error_iff, reservedBitsZero_iff, legalCommandWord_eq_false, hz]
  · by_cases hz : w.extractLsb 31 4 = 0#28 <;>
      simp [decodeWord_eq_error_iff, reservedBitsZero_iff, legalCommandWord_eq_false, hz]
  · have hturn : nextTurn s = .engine := by
      rcases ha with ha | ⟨rest, ha⟩ <;> simp [nextTurn, ha]
    refine ⟨_, (step_engine hturn).trans (engineTurn_of_illegal hp (legalCommandWord_eq_false.2 hw)), rfl, rfl, rfl,
      rfl, fun r hr => ?_, fun _ => rfl⟩
    exact (regValue_complete _ _ hr).trans (regValue_host s r _ s.readData s.freeCount s.buf)

/-- Settles O10: the write to CMD issues the command, and the rest of the turns is `WAIT`. -/
theorem runPollsUntilTheCompletedStatus : Obligations.RunPollsUntilTheCompletedStatus := by
  intro s i polls hb ha
  have hissue := step_write_idle .cmd hb ha
  have hstatus : regValue (issue (encode i) s) .status = 0#20 ++ (encode i).extractLsb 3 0 ++ 0#7 ++ 1#1 :=
    Status.toWord_issued _
  obtain ⟨t, ht⟩ := exec_completes i (issue (encode i) { s with
    agenda := [],
    readData := if polls = 0 then s.readData else 0#20 ++ (encode i).extractLsb 3 0 ++ 0#7 ++ 1#1 })
  obtain ⟨hidle, hdone⟩ := exec_idle_done ht
  refine ⟨t, ht, ?_, hidle, hdone, exec_lastOp ht⟩
  rw [← hstatus] at ht
  exact (run_succ hissue (polls + 2)).trans (run_wait rfl rfl ht)

/-- Settles O33: the mask covers each of the seven fields that validity reads. -/
theorem uncheckedBitsDoNotMatter : Obligations.UncheckedBitsDoNotMatter := fun p a b h =>
  valid_congr p (extractLsb_eq_of_masked h (by decide)) (extractLsb_eq_of_masked h (by decide))
    (extractLsb_eq_of_masked h (by decide)) (extractLsb_eq_of_masked h (by decide))
    (extractLsb_eq_of_masked h (by decide)) (extractLsb_eq_of_masked h (by decide))
    (extractLsb_eq_of_masked h (by decide))

end Sys2Proof
end

section
/-! SUPPORT. 40_command_lifecycle.md: issue, completion, what the host can do meanwhile, and what a command's results
depend on. -/

namespace Sys2Proof.Machine

/-! ### One turn: it goes on under a dutiful host, and what it leaves of BUSY and the agenda -/

section
variable {s t : State} {w : Word}

/-- Only CMD lies at its offset. -/
theorem Reg.ofOffset_eq_cmd {o : Nat} : Reg.ofOffset o = some .cmd ↔ o = Reg.cmd.offset := by
  constructor
  · intro h
    have := List.find?_some (p := fun r : Reg => r.offset == o) h
    exact (beq_iff_eq.1 this).symm
  · rintro rfl
    exact Reg.ofOffset_offset .cmd

@[simp] theorem busy_readReg (o : Nat) (s : State) : busy (readReg o s) = busy s := by
  obtain ⟨_, _, h⟩ := readReg_frame o s
  rw [h]
  rfl

/-- Only a write of CMD issues a command. -/
theorem busy_writeRegIdle (r : Reg) (v : Word) (s : State) :
    busy (writeRegIdle r v s) = (busy s || r == .cmd) := by
  cases r with
  | cmd => simp [writeRegIdle]
  | status =>
    simp only [writeRegIdle]
    split <;> simp [busy]
  | _ => simp [writeRegIdle, busy]

/-- BUSY after a host's register write (R120, R121). -/
theorem busy_writeReg (o : Nat) (v : Word) (s : State) :
    busy (writeReg o v s) = (busy s || o == Reg.cmd.offset) := by
  cases hb : busy s with
  | true => simp [writeReg_busy hb, hb]
  | false =>
    have hcmd := Reg.ofOffset_eq_cmd (o := o)
    simp only [writeReg, hb, Bool.false_eq_true, if_false, Bool.false_or]
    split
    · next r hr =>
      rw [busy_writeRegIdle, hb, Bool.false_or, Bool.eq_iff_iff, beq_iff_eq, beq_iff_eq, ← hcmd, hr, Option.some_inj]
    · next hr =>
      have hne : o ≠ Reg.cmd.offset := fun ho => by simp [hcmd.2 ho] at hr
      simp [hb, hne]

@[simp] theorem readReg_agenda (o : Nat) (s : State) : (readReg o s).agenda = s.agenda := by
  obtain ⟨_, _, h⟩ := readReg_frame o s
  rw [h]

@[simp] theorem writeReg_agenda (o : Nat) (v : Word) (s : State) : (writeReg o v s).agenda = s.agenda := by
  obtain ⟨_, _, _, _, _, _, h⟩ := writeReg_frame o v s
  rw [h]

theorem engineTurn_agenda (h : engineTurn s = .next t) : t.agenda = s.agenda := by
  obtain ⟨-, rfl⟩ | ⟨_, _, -, -, hx⟩ | ⟨_, _, -, -, rfl⟩ := engineTurn_cases h
  · rfl
  · exact exec_agenda hx
  · exact complete_agenda _ s

/-- No command is pending after the engine's turn. -/
theorem engineTurn_idle (h : engineTurn s = .next t) : busy t = false := by
  obtain ⟨hp, rfl⟩ | ⟨_, _, -, -, hx⟩ | ⟨_, _, -, -, rfl⟩ := engineTurn_cases h
  · exact busy_eq_false.2 hp
  · exact (exec_idle_done hx).1
  · exact busy_complete _ s

/-- The engine's turn never stops the machine (R127, R260). -/
theorem engineTurn_goes_on (s : State) : ∃ t, engineTurn s = .next t := by
  cases hp : s.pending with
  | none => exact ⟨s, by simp [engineTurn, fetchCommand, hp]⟩
  | some w =>
    cases hw : legalCommandWord w with
    | false => exact ⟨_, engineTurn_of_illegal hp hw⟩
    | true =>
      obtain ⟨i, rfl⟩ := legalCommandWord_iff.1 hw
      obtain ⟨t, ht⟩ := exec_completes i s
      exact ⟨t, (engineTurn_of_ok hp (decodeWord_encode i)).trans ht⟩

/-- The engine's turn completes whatever command is pending: DONE = 1, LAST_OP as the issue set it (R122). -/
theorem engineTurn_completes (hb : busy s = true) (h : engineTurn s = .next t) :
    t.status.done = true ∧ t.status.lastOp = s.status.lastOp := by
  obtain ⟨hp, -⟩ | ⟨_, _, -, -, hx⟩ | ⟨_, _, -, -, rfl⟩ := engineTurn_cases h
  · simp [busy, hp] at hb
  · exact ⟨(exec_idle_done hx).2, exec_lastOp hx⟩
  · exact ⟨rfl, rfl⟩

theorem hostStep_agenda {m : HostStep} (h : hostStep m s = .next t) : t.agenda = s.agenda := by
  obtain ⟨o, -, -, -, rfl⟩ | ⟨o, v, -, -, -, rfl⟩ | ⟨o, b, -, -, -, rfl⟩ := hostStep_cases h
  · exact readReg_agenda o s
  · exact writeReg_agenda o v s
  · rfl

/-- While a command runs, a step of the host changes what the host has read and the count of draws alone (R70, R73,
R121). -/
theorem hostStep_busy {m : HostStep} (hb : busy s = true) (h : hostStep m s = .next t) :
    ∃ v n, t = { s with readData := v, freeCount := n } := by
  obtain ⟨o, -, -, -, rfl⟩ | ⟨o, v, -, -, -, rfl⟩ | ⟨o, b, -, hidle, -⟩ := hostStep_cases h
  · exact readReg_frame o s
  · exact ⟨s.readData, s.freeCount, writeReg_busy hb o v⟩
  · simp [hb] at hidle

/-- `busyAfter` is BUSY after a host step. -/
theorem hostStep_busyAfter {m : HostStep} (h : hostStep m s = .next t) : busy t = busyAfter (busy s) (.host m) := by
  obtain ⟨o, rfl, -, -, rfl⟩ | ⟨o, v, rfl, -, -, rfl⟩ | ⟨o, b, rfl, -, -, rfl⟩ := hostStep_cases h
  · exact busy_readReg o s
  · exact busy_writeReg o v s
  · rfl

/-- A host step inside the interface goes on (R67, R73). -/
theorem hostStep_goes_on {m : HostStep} (h : turnAllowed s.params (busy s) (.host m) = true) :
    ∃ t, hostStep m s = .next t := by
  cases m with
  | read o w | write o w v =>
    obtain ⟨⟨rfl, h4⟩, hw⟩ : (w = 32 ∧ o % 4 = 0) ∧ o < registerWindow := by
      simpa [turnAllowed, HostStep.wellFormed, wordAccess] using h
    exact ⟨_, registerAccess_inside _ h4 hw⟩
  | bufWrite o b =>
    obtain ⟨hb, ho⟩ : busy s = false ∧ o < s.params.bufCap := by
      simpa [turnAllowed, HostStep.wellFormed] using h
    exact ⟨_, bufferWrite_eq_next.2 ⟨hb, ho, rfl⟩⟩

/-- A turn that keeps the host's duties goes on. -/
theorem takeTurn_goes_on {u : Turn} (h : turnAllowed s.params (busy s) u = true) : ∃ t, takeTurn u s = .next t := by
  cases u with
  | host m => exact hostStep_goes_on h
  | engine => exact engineTurn_goes_on s
  | reset => exact ⟨_, rfl⟩

/-- What a turn leaves of the three things the host's duties speak of: the parameters, BUSY and the turns to come. -/
theorem takeTurn_duties {u : Turn} (h : takeTurn u s = .next t) :
    t.params = s.params ∧ busy t = busyAfter (busy s) u ∧ t.agenda = s.agenda := by
  cases u with
  | host m => exact ⟨hostStep_params h, hostStep_busyAfter h, hostStep_agenda h⟩
  | engine => exact ⟨engineTurn_params h, engineTurn_idle h, engineTurn_agenda h⟩
  | reset => cases h; exact ⟨rfl, rfl, rfl⟩

end

end Sys2Proof.Machine

namespace Sys2Proof

open Machine

/-! ### Runs under a dutiful host -/

section
variable {s : State}

theorem step_nil (h : s.agenda = []) : step s = engineTurn s := by simp [step, h]

theorem step_cons {u : Turn} {rest : List Turn} (h : s.agenda = u :: rest) :
    step s = takeTurn u { s with agenda := rest } := by
  simp [step, h]

/-- The turn at the head of a dutiful agenda goes on, and the rest is dutiful again. -/
theorem takeTurn_dutiful {u : Turn} {rest : List Turn} (ha : s.agenda = u :: rest)
    (h : dutiful s.params (busy s) s.agenda = true) :
    ∃ t, takeTurn u { s with agenda := rest } = .next t ∧ t.agenda = rest ∧ busy t = busyAfter (busy s) u
      ∧ dutiful t.params (busy t) t.agenda = true := by
  rw [ha, dutiful, Bool.and_eq_true] at h
  obtain ⟨hallowed, hrest⟩ := h
  obtain ⟨t, ht⟩ := takeTurn_goes_on (s := { s with agenda := rest }) hallowed
  obtain ⟨hp, hb, hag⟩ := takeTurn_duties ht
  exact ⟨t, ht, hag, hb, by rw [hp, hb, hag]; exact hrest⟩

theorem step_dutiful (h : dutiful s.params (busy s) s.agenda = true) :
    ∃ t, step s = .next t ∧ dutiful t.params (busy t) t.agenda = true := by
  cases ha : s.agenda with
  | nil =>
    obtain ⟨t, ht⟩ := engineTurn_goes_on s
    exact ⟨t, (step_nil ha).trans ht, by rw [engineTurn_agenda ht, ha]; rfl⟩
  | cons u rest =>
    obtain ⟨t, ht, -, -, hd⟩ := takeTurn_dutiful ha h
    exact ⟨t, (step_cons ha).trans ht, hd⟩

/-- A predicate under which every step goes on and which every step keeps makes a run safe. -/
theorem safeRun_of_progress {P : State → Prop} (hstep : ∀ s, P s → ∃ t, step s = .next t ∧ P t) (hs : P s) :
    SafeRun s := by
  intro k
  induction k generalizing s with
  | zero => exact ⟨s, rfl⟩
  | succ k ih =>
    obtain ⟨t, ht, hPt⟩ := hstep s hs
    rw [run_succ ht]
    exact ih hPt

/-- A command pending at the head of a dutiful agenda is gone by the turn after the last. -/
theorem run_completes (hb : busy s = true) (h : dutiful s.params (busy s) s.agenda = true) :
    ∃ k t, k ≤ s.agenda.length + 1 ∧ run k s = .next t ∧ busy t = false
      ∧ (Turn.reset ∉ s.agenda → t.status.done = true ∧ t.status.lastOp = s.status.lastOp) := by
  induction ha : s.agenda generalizing s with
  | nil =>
    obtain ⟨t, ht⟩ := engineTurn_goes_on s
    exact ⟨1, t, le_rfl, run_succ ((step_nil ha).trans ht) 0, engineTurn_idle ht, fun _ => engineTurn_completes hb ht⟩
  | cons u rest ih =>
    obtain ⟨t, ht, hag, hbt, hd⟩ := takeTurn_dutiful ha h
    have hrun := run_succ ((step_cons ha).trans ht)
    cases u with
    | engine =>
      have hdone := engineTurn_completes (s := { s with agenda := rest }) hb ht
      exact ⟨1, t, Nat.le_add_left .., hrun 0, hbt, fun _ => hdone⟩
    | reset => exact ⟨1, t, Nat.le_add_left .., hrun 0, hbt, fun hno => absurd List.mem_cons_self hno⟩
    | host m =>
      obtain ⟨v, n, rfl⟩ := hostStep_busy (s := { s with agenda := rest }) hb ht
      obtain ⟨k, t', hk, hrun', hidle, hdone⟩ :=
        ih (s := { s with agenda := rest, readData := v, freeCount := n }) hb hd rfl
      exact ⟨k + 1, t', Nat.succ_le_succ hk, (hrun k).trans hrun', hidle,
        fun hno => hdone fun hmem => hno (List.mem_cons_of_mem _ hmem)⟩

end

/-- Settles O59: a dutiful turn goes on, `busyAfter` says what BUSY is after it, and safety follows by induction on the
number of steps. -/
theorem dutifulHostRunsSafely : Obligations.DutifulHostRunsSafely :=
  ⟨fun _ => step_dutiful, fun _ h =>
    safeRun_of_progress (P := fun s => dutiful s.params (busy s) s.agenda = true) (fun _ => step_dutiful) h⟩

/-- Settles O8: the turn is a step of the host, which changes what the host has read and the count of draws alone. -/
theorem operandsHoldUntilCompletion : Obligations.OperandsHoldUntilCompletion := by
  intro s t hb hstep hengine hreset
  obtain ⟨hn, -⟩ | ⟨m, -, hm⟩ | ⟨hn, -⟩ := step_cases hstep
  · exact absurd hn hengine
  · obtain ⟨v, n, rfl⟩ := hostStep_busy (s := { s with agenda := s.agenda.tail }) hb hm
    exact ⟨rfl, rfl, fun r => regValue_host s r _ v n s.buf⟩
  · exact absurd hn hreset

/-- Settles O9: the engine's turn completes a pending command, and until it or a reset comes the command stays
pending. -/
theorem everyPendingCommandCompletes : Obligations.EveryPendingCommandCompletes := by
  refine ⟨fun s w hp ha => ?_, fun s hb h => run_completes hb (hb ▸ h)⟩
  obtain ⟨t, ht⟩ := engineTurn_goes_on s
  exact ⟨t, (step_nil ha).trans ht, engineTurn_idle ht, engineTurn_completes (by simp [busy, hp]) ht⟩

/-- Settles O4: both forms of the agenda give the engine its turn, which is the meaning of the decoded word. -/
theorem stepRunsTheDecodedCommand : Obligations.StepRunsTheDecodedCommand := fun s _ _ hp hd =>
  ⟨fun ha => (step_nil ha).trans (engineTurn_of_ok hp hd),
    fun rest ha => (step_cons ha).trans (engineTurn_of_ok (s := { s with agenda := rest }) hp hd)⟩

/-- Settles O5: the table word is the command's word, and the first turn of the agenda is the engine's. -/
theorem withFetchWordRunsTheCommandNext : Obligations.WithFetchWordRunsTheCommandNext := by
  intro s i
  rw [State.withFetchWord, tableWord_toNat]
  exact (step_cons (u := .engine) (rest := s.agenda) rfl).trans
    (engineTurn_of_ok (s := issue (encode i) s) rfl (decodeWord_encode i))

/-- Settles O6: the step is the issue of the word, which shows in no register but STATUS. -/
theorem cmdWriteIssuesTheCommand : Obligations.CmdWriteIssuesTheCommand := fun s w rest hb ha =>
  ⟨_, step_write_idle .cmd hb ha, rfl, rfl,
    fun r hr => (regValue_issue w _ hr).trans (regValue_host s r rest s.readData s.freeCount s.buf), fun _ => rfl, rfl⟩

/-- Settles O7: a register write while busy is lost. -/
theorem writesWhileBusyAreIgnored : Obligations.WritesWhileBusyAreIgnored := fun s o v rest hb h4 hw ha =>
  (step_write ha h4 hw).trans (congrArg _ (writeReg_busy (s := { s with agenda := rest }) hb o v))

/-- Settles O12: a command sets STATUS and result groups, nothing else. -/
theorem commandsLeaveTheModelsOwnFields : Obligations.CommandsLeaveTheModelsOwnFields := by
  intro i s t h
  obtain ⟨_, _, _, _, _, _, _, rfl⟩ := exec_frame h
  exact ⟨rfl, rfl, rfl⟩

/-- Settles O15: NOP is a completion with NONE and nothing before it. -/
theorem nopCompletes : Obligations.NopCompletes := fun s =>
  ⟨complete .none s, rfl, rfl, rfl, rfl, rfl, irq_complete .none s, fun _ hr => regValue_complete .none s hr,
    fun _ => rfl⟩

/-- While a command is pending STATUS shows BUSY and its OP, with DONE = ERR = 0 (R22, R120). -/
theorem Inv.statusWord_pending {s : State} {w : Word} (h : Inv s) (hp : s.pending = some w) :
    regValue s .status = 0#20 ++ w.extractLsb 3 0 ++ 0#7 ++ 1#1 := by
  have hb : s.pending.isSome := by simp [hp]
  have hst : s.status = ⟨false, .none, w.extractLsb 3 0⟩ := by
    rw [← h.status.busy_not_done hb, ← h.status.busy_no_err hb, ← h.status.busy_last_op w hp]
  rw [regValue, statusWord, hst, busy, hb]
  exact Status.toWord_issued _

/-- Settles O18: a result register read while busy draws a free value, and every other read is specified. -/
theorem readsWhileBusy : Obligations.ReadsWhileBusy := by
  intro s w r rest hinv hp ha
  obtain ⟨h4, hw⟩ := r.offset_inside
  have hb : busy { s with agenda := rest } = true := by simp [busy, hp]
  have hread : r.isResult = false → (readReg r.offset { s with agenda := rest }).readData = regValue s r := fun hr => by
    rw [readReg_offset_of_not_result hr]
    exact regValue_host s r rest s.readData s.freeCount s.buf
  refine ⟨_, step_read ha h4 hw, ?_, ?_, ?_, fun hr => ?_⟩
  · rintro rfl
    exact (hread rfl).trans (hinv.statusWord_pending hp)
  · rintro rfl
    exact hread rfl
  · rintro (rfl | rfl | rfl | rfl) <;> exact hread rfl
  · simp [readReg, hb, hr]

end Sys2Proof

namespace Sys2Proof.Machine

/-! ### What a command's results depend on (R123) -/

/-- Two inputs that a command cannot tell apart: the same parameters and BUF_LEN, and the same bytes below it. -/
structure Input.Agree (d d' : Input) : Prop where
  params : d.params = d'.params
  len : d.len = d'.len
  byte : ∀ a, a < d.len → d.buf.byte a = d'.buf.byte a

namespace Input.Agree
variable {d d' : Input} (h : d.Agree d')
include h

theorem readWord_eq : readWord d = readWord d' := funext (readWord_congr h.len h.byte)

theorem hdrAt_eq : hdrAt d = hdrAt d' := h.readWord_eq

theorem inBuf_eq : inBuf d = inBuf d' := by
  funext a n
  simp only [inBuf, h.len]

theorem probeFrom_eq (o : Nat) (w : Word) (n s : Nat) : probeFrom d o w n s = probeFrom d' o w n s := by
  induction n generalizing s with
  | zero => rfl
  | succ n ih => simp only [probeFrom, h.hdrAt_eq, h.params, ih]

theorem probe_eq (o : Nat) : probe d o = probe d' o := by
  simp only [probe, h.hdrAt_eq, h.params, h.probeFrom_eq]

theorem frameLen_eq (pos : Nat) (w : Word) : frameLen d pos w = frameLen d' pos w := by
  simp only [frameLen, h.probe_eq, h.params]

theorem confirmFrom_eq (more k pos : Nat) (first : Option Word) :
    confirmFrom d more k pos first = confirmFrom d' more k pos first := by
  induction more generalizing k pos first with
  | zero => simp only [confirmFrom, h.hdrAt_eq, h.params]
  | succ more ih => simp only [confirmFrom, h.hdrAt_eq, h.params, h.frameLen_eq, ih]

theorem confirm_eq (c : Nat) : confirm d c = confirm d' c := by
  simp only [confirm, h.params, h.confirmFrom_eq]

theorem syncFrom_eq (n o rejects : Nat) : syncFrom d n o rejects = syncFrom d' n o rejects := by
  induction n generalizing o rejects with
  | zero => simp only [syncFrom, h.len]
  | succ n ih => simp only [syncFrom, h.hdrAt_eq, h.params, h.len, h.confirm_eq, ih]

theorem sync_eq (start : Nat) : sync d start = sync d' start := by
  simp only [sync, h.len, h.syncFrom_eq]

theorem probeCommand_eq (o : Nat) : probeCommand d o = probeCommand d' o := by
  simp only [probeCommand, h.hdrAt_eq, h.params, h.probe_eq]

theorem xingBlock_eq (tag : Word) (p : Nat) : xingBlock d tag p = xingBlock d' tag p := by
  simp only [xingBlock, xingField, xingToc, h.readWord_eq, h.inBuf_eq]

theorem parseXing_eq (f : Nat) : parseXing d f = parseXing d' f := by
  simp only [parseXing, h.hdrAt_eq, h.readWord_eq, h.params, h.xingBlock_eq]

end Input.Agree

/-- Two states agree on the group of result registers a command writes (R53). -/
def SameGroup (t t' : State) : Instr → Prop
  | .nop => True
  | .decode | .decodeMem => t.hdr = t'.hdr
  | .compare => t.compat = t'.compat
  | .confirm => t.confRes = t'.confRes
  | .sync => t.sync = t'.sync
  | .probe => t.probeSize = t'.probeSize
  | .xing | .setFc | .setBc => t.xing = t'.xing

/-- The registers a command writes, STATUS apart, show its group alone. -/
theorem SameGroup.regValue_eq {t t' : State} {i : Instr} {r : Reg} (h : SameGroup t t' i) (hr : r ≠ .status)
    (hw : writes i r = true) : regValue t r = regValue t' r := by
  cases i with
  | nop => cases r <;> simp [writes] at hr hw
  | decode | decodeMem | compare | confirm | sync | probe | xing | setFc | setBc =>
    rw [SameGroup] at h
    cases r <;> simp [writes, regValue, h] at hr hw ⊢

/-- SET_FC as one completion: what it sets and its error both turn on PRESENT alone (R240). -/
theorem exec_setFc (s : State) : exec .setFc s = .next (complete
    (if s.xing.info.present then .none else .unsupported)
    { s with xing := if s.xing.info.present then setFrames s.arg1 s.xing else s.xing }) := by
  simp only [exec, execSetFc]
  split <;> rfl

/-- SET_BC as one completion (R241). -/
theorem exec_setBc (s : State) : exec .setBc s = .next (complete
    (if s.xing.info.present then .none else .unsupported)
    { s with xing := if s.xing.info.present then setBytes s.arg1 s.xing else s.xing }) := by
  simp only [exec, execSetBc]
  split <;> rfl

/-- Two states from which a command sees the same: parameters, operands, readable bytes and, for a mutator, group X
(R123). -/
structure SameInputs (s s' : State) (i : Instr) : Prop where
  params : s.params = s'.params
  arg0 : s.arg0 = s'.arg0
  arg1 : s.arg1 = s'.arg1
  input : (inputOf s).Agree (inputOf s')
  xing : i = .setFc ∨ i = .setBc → s.xing = s'.xing

/-- From the same inputs a command gives the same error and writes the same values; DECODE_MEM out of bounds writes
none (R161). -/
theorem SameInputs.results_eq {i : Instr} {s s' t t' : State} (h : SameInputs s s' i) (ht : exec i s = .next t)
    (ht' : exec i s' = .next t') :
    t.status.err = t'.status.err ∧ ((i = .decodeMem → t.status.err ≠ .bufferBounds) → SameGroup t t' i) := by
  have ho : offsetOperand s = offsetOperand s' := congrArg BitVec.toNat h.arg0
  cases i with
  | nop => cases ht; cases ht'; exact ⟨rfl, fun _ => trivial⟩
  | decode => cases ht; cases ht'; simp [decodeHeader, SameGroup, h.params, h.arg0]
  | decodeMem =>
    simp only [exec, execDecodeMem, h.input.hdrAt_eq, ho] at ht ht'
    cases hw : hdrAt (inputOf s') (offsetOperand s') with
    | some w =>
      rw [hw] at ht ht'
      cases ht; cases ht'
      simp [decodeHeader, SameGroup, h.params]
    | none =>
      rw [hw] at ht ht'
      cases ht; cases ht'
      exact ⟨rfl, fun hne => absurd rfl (hne rfl)⟩
  | compare => cases ht; cases ht'; simp [SameGroup, h.params, h.arg0, h.arg1]
  | confirm => cases ht; cases ht'; simp [SameGroup, h.input.confirm_eq, ho]
  | sync => cases ht; cases ht'; simp [SameGroup, h.input.sync_eq, ho]
  | probe => cases ht; cases ht'; simp [SameGroup, h.input.probeCommand_eq, ho]
  | xing => cases ht; cases ht'; simp [SameGroup, h.input.parseXing_eq, ho]
  | setFc =>
    rw [exec_setFc] at ht ht'
    cases ht; cases ht'
    simp [SameGroup, h.xing (.inl rfl), h.arg1]
  | setBc =>
    rw [exec_setBc] at ht ht'
    cases ht; cases ht'
    simp [SameGroup, h.xing (.inr rfl), h.arg1]

end Sys2Proof.Machine

namespace Sys2Proof

open Machine

/-- Settles O51: each pure function a command computes sees the buffer below BUF_LEN alone, so the commands write the
same group. -/
theorem resultsDependOnlyOnTheInputs : Obligations.ResultsDependOnlyOnTheInputs := by
  intro i s s' t t' hp h0 h1 hl hb hx ht ht'
  have hsame : SameInputs s s' i := ⟨hp, h0, h1, ⟨hp, congrArg BitVec.toNat hl, hb⟩, hx⟩
  obtain ⟨herr, hgroup⟩ := hsame.results_eq ht ht'
  exact ⟨herr, fun hbounds r hr hw => (hgroup hbounds).regValue_eq hr hw⟩

end Sys2Proof
end


section
/-! SUPPORT. 41_header_codec.md: the checks of a header, its geometry by layer and version, and the three commands that
report them. -/

namespace Sys2Proof.Machine

/-! ### The checks of a header (R140 to R142) -/

section
variable {p : Params} {h : Word}

/-! The statements name the fields by their bits, the lemmas by the model's names (R80). -/

theorem extractLsb_version (h : Word) : h.extractLsb 20 19 = version h := rfl
theorem extractLsb_layer (h : Word) : h.extractLsb 18 17 = layer h := rfl
theorem extractLsb_srIdx (h : Word) : h.extractLsb 11 10 = srIdx h := rfl

theorem valid_iff : valid p h = true ↔ syncOk p h = true ∧ version h ≠ 0b01#2 ∧ layer h ≠ 0b00#2 ∧ brIdx h ≠ 0xF#4
    ∧ srIdx h ≠ 0b11#2 ∧ emph h ≠ 0b10#2 ∧ modeOk p h = true := by
  simp [valid, verOk, layerOk, brOk, srOk, emphOk, and_assoc]

theorem syncOk_11 (hp : p.pSyncBits = 11) : syncOk p h = true ↔ syncField h = 0x7FF#11 := by simp [syncOk, hp]

/-- Bit 20 stands right below the sync field, so the two checks of the 12-bit width are one on bits 31:20 (R140). -/
theorem syncOk_12 (hp : p.pSyncBits = 12) : syncOk p h = true ↔ h.extractLsb 31 20 = 0xFFF#12 := by
  have hchecks : syncOk p h = true ↔ syncField h = 0x7FF#11 ∧ h.getLsbD 20 = true := by simp [syncOk, hp]
  rw [hchecks, ← BitVec.toNat_inj, ← BitVec.toNat_inj]
  simp only [syncField, BitVec.extractLsb_toNat, BitVec.getLsbD, Nat.testBit_eq_decide_div_mod_eq,
    Nat.shiftRight_eq_div_pow, BitVec.toNat_ofNat, decide_eq_true_eq]
  omega

theorem modeOk_not_mpeg1Layer2 (hv : ¬(version h = 0b11#2 ∧ layer h = 0b10#2)) : modeOk p h = true := by
  simp [modeOk, isMpeg1Layer2, not_and_or.1 hv]

theorem modeOk_mpeg1Layer2 (hver : version h = 0b11#2) (hlayer : layer h = 0b10#2) : modeOk p h =
    if mode h = 0b11#2 then p.l2ModeOk.mono.getD (brIdx h).toNat false
    else p.l2ModeOk.nonMono.getD (brIdx h).toNat false := by
  by_cases hm : mode h = 0b11#2 <;> simp [modeOk, isMpeg1Layer2, l2ModeEntry, isMono, hver, hlayer, hm]

end

/-! ### Compatibility (R84, R157) -/

section
variable {a b : Word}

theorem getLsbD_eq_of_extractLsb_eq {hi lo j : Nat} (h : a.extractLsb hi lo = b.extractLsb hi lo) (hlo : lo ≤ j)
    (hhi : j ≤ hi) : a.getLsbD j = b.getLsbD j := by
  simpa [show j - lo < hi - lo + 1 by omega, show lo + (j - lo) = j by omega] using congrArg (·.getLsbD (j - lo)) h

/-- The bits COMPAT_MASK covers are those of the five fields. -/
theorem compatMask_covers : ∀ j < 32, compatMask.getLsbD j = true →
    (19 ≤ j ∧ j ≤ 20) ∨ (17 ≤ j ∧ j ≤ 18) ∨ (10 ≤ j ∧ j ≤ 11) ∨ (6 ≤ j ∧ j ≤ 7) ∨ (0 ≤ j ∧ j ≤ 1) := by decide

theorem compat_iff_masked : compat a b = true ↔ (a ^^^ b) &&& compatMask = 0 := beq_iff_eq

theorem compat_iff_fields : compat a b = true ↔
    version a = version b ∧ layer a = layer b ∧ srIdx a = srIdx b ∧ mode a = mode b ∧ emph a = emph b := by
  rw [compat_iff_masked]
  constructor
  · exact fun h => ⟨extractLsb_eq_of_masked h (by decide), extractLsb_eq_of_masked h (by decide),
      extractLsb_eq_of_masked h (by decide), extractLsb_eq_of_masked h (by decide),
      extractLsb_eq_of_masked h (by decide)⟩
  · rintro ⟨hver, hlayer, hsr, hmode, hemph⟩
    refine BitVec.eq_of_getLsbD_eq fun j hj => ?_
    cases hm : compatMask.getLsbD j with
    | false => simp [hm]
    | true =>
      have hbit : a.getLsbD j = b.getLsbD j := by
        obtain ⟨hlo, hhi⟩ | ⟨hlo, hhi⟩ | ⟨hlo, hhi⟩ | ⟨hlo, hhi⟩ | ⟨hlo, hhi⟩ := compatMask_covers j hj hm
        · exact getLsbD_eq_of_extractLsb_eq hver hlo hhi
        · exact getLsbD_eq_of_extractLsb_eq hlayer hlo hhi
        · exact getLsbD_eq_of_extractLsb_eq hsr hlo hhi
        · exact getLsbD_eq_of_extractLsb_eq hmode hlo hhi
        · exact getLsbD_eq_of_extractLsb_eq hemph hlo hhi
      simp [hbit]

end

/-- The bits of COMPAT (R35). -/
theorem Compat.toWord_bits (c : Compat) : c.toWord.getLsbD 0 = c.eq ∧ c.toWord.getLsbD 1 = c.aValid
    ∧ c.toWord.getLsbD 2 = c.bValid ∧ c.toWord.extractLsb 31 3 = 0 := by
  refine ⟨?_, ?_, ?_, ?reserved⟩
  case reserved =>
    ext j hj
    simp [Compat.toWord, BitVec.getLsbD_append (m := 1)]
  all_goals simp [Compat.toWord, BitVec.getElem_append (m := 1)]

/-! ### Samples, slots and side information by layer and version (R149, R150, R154) -/

section
variable {h : Word}

theorem layer_cases (hl : layer h ≠ 0b00#2) : layer h = 0b11#2 ∨ layer h = 0b10#2 ∨ layer h = 0b01#2 := by
  generalize layer h = l at *
  revert l
  decide

theorem layerNum_layer1 (hl : layer h = 0b11#2) : layerNum h = 1 := by simp [layerNum, hl]
theorem layerNum_layer2 (hl : layer h = 0b10#2) : layerNum h = 2 := by simp [layerNum, hl]
theorem layerNum_layer3 (hl : layer h = 0b01#2) : layerNum h = 3 := by simp [layerNum, hl]

theorem vclass_mpeg1 (hv : version h = 0b11#2) : vclass h = 1 := by simp [vclass, hv]
theorem vclass_not_mpeg1 (hv : version h ≠ 0b11#2) : vclass h = 2 := by simp [vclass, hv]

theorem samples_layer1 (hl : layer h = 0b11#2) : spf h = 384 ∧ slot h = 4 ∧ coef h = 12 := by
  simp [coef, spf, slot, layerNum_layer1 hl]

theorem samples_layer2 (hl : layer h = 0b10#2) : spf h = 1152 ∧ slot h = 1 ∧ coef h = 144 := by
  simp [coef, spf, slot, layerNum_layer2 hl]

theorem samples_layer3_mpeg1 (hl : layer h = 0b01#2) (hv : version h = 0b11#2) :
    spf h = 1152 ∧ slot h = 1 ∧ coef h = 144 := by
  simp [coef, spf, slot, layerNum_layer3 hl, hv]

theorem samples_layer3_not_mpeg1 (hl : layer h = 0b01#2) (hv : version h ≠ 0b11#2) :
    spf h = 576 ∧ slot h = 1 ∧ coef h = 72 := by
  simp [coef, spf, slot, layerNum_layer3 hl, hv]

theorem slot_layer3 (hl : layer h = 0b01#2) : slot h = 1 := by simp [slot, layerNum_layer3 hl]

/-- The three values of the coefficient, and the headers that have each (R150). -/
theorem coef_cases (hl : layer h ≠ 0b00#2) :
    (layer h = 0b11#2 ∧ spf h = 384 ∧ slot h = 4 ∧ coef h = 12)
    ∨ (layer h ≠ 0b11#2 ∧ (layer h = 0b10#2 ∨ version h = 0b11#2) ∧ spf h = 1152 ∧ slot h = 1 ∧ coef h = 144)
    ∨ (layer h = 0b01#2 ∧ version h ≠ 0b11#2 ∧ spf h = 576 ∧ slot h = 1 ∧ coef h = 72) := by
  obtain hl | hl | hl := layer_cases hl
  · exact .inl ⟨hl, samples_layer1 hl⟩
  · exact .inr (.inl ⟨by simp [hl], .inl hl, samples_layer2 hl⟩)
  · by_cases hv : version h = 0b11#2
    · exact .inr (.inl ⟨by simp [hl], .inr hv, samples_layer3_mpeg1 hl hv⟩)
    · exact .inr (.inr ⟨hl, hv, samples_layer3_not_mpeg1 hl hv⟩)

/-- The slot coefficient divides without remainder (R150). -/
theorem coef_exact (hl : layer h ≠ 0b00#2) : coef h * (8 * slot h) = spf h := by
  obtain ⟨-, hspf, hslot, hcoef⟩ | ⟨-, -, hspf, hslot, hcoef⟩ | ⟨-, -, hspf, hslot, hcoef⟩ := coef_cases hl <;>
    rw [hspf, hslot, hcoef]

theorem isMono_eq (h : Word) : isMono h = decide (mode h = 0b11#2) := rfl

theorem sideInfoSize_layer3 (hl : layer h = 0b01#2) : sideInfoSize h =
    if version h = 0b11#2 then (if mode h = 0b11#2 then 17 else 32) else (if mode h = 0b11#2 then 9 else 17) := by
  by_cases hv : version h = 0b11#2 <;> by_cases hm : mode h = 0b11#2 <;>
    simp [sideInfoSize, layerNum_layer3 hl, vclass, isMono_eq, hv, hm]

theorem sideInfoSize_not_layer3 (hl : layerNum h ≠ 3) : sideInfoSize h = 0 := by simp [sideInfoSize, hl]

/-- Side information reads three fields of the header (R154). -/
theorem sideInfoSize_congr {a b : Word} (hver : version a = version b) (hlayer : layer a = layer b)
    (hmode : mode a = mode b) : sideInfoSize a = sideInfoSize b := by
  have hclass : vclass a = vclass b := by rw [vclass, vclass, hver]
  have hnum : layerNum a = layerNum b := by rw [layerNum, layerNum, hlayer]
  have hmono : isMono a = isMono b := congrArg (· == 0b11#2) hmode
  rw [sideInfoSize, sideInfoSize, hclass, hnum, hmono]

theorem spf_le (h : Word) : spf h ≤ 1152 := by
  unfold spf
  split
  · decide
  · decide
  · split <;> decide

theorem sideInfoSize_le (h : Word) : sideInfoSize h ≤ 32 := by
  unfold sideInfoSize
  split
  · split <;> decide
  · decide

theorem dataOffset_le (h : Word) : dataOffset h ≤ 36 := Nat.add_le_add_left (sideInfoSize_le h) 4

theorem pad_le (h : Word) : pad h ≤ 1 := Bool.toNat_le _

end

/-! ### Bitrate, sampling rate and frame size from the header's bits and the table entries (R144, R145, R151) -/

section
variable {p : Params} {h : Word}

theorem kbpsByFields_eq (hl : layer h ≠ 0b00#2) (i : Nat) :
    kbpsByFields p h i = (bitrateColumn p.bitrateKbps (vclass h) (layerNum h)).getD (i - 1) 0 := by
  obtain hl | hl | hl := layer_cases hl <;> by_cases hv : version h = 0b11#2 <;>
    simp [kbpsByFields, extractLsb_version, extractLsb_layer, bitrateColumn, vclass, layerNum, hl, hv]

theorem brIdx_pos (hf : isFree h = false) : 0 < (brIdx h).toNat :=
  Nat.pos_of_ne_zero fun h0 => by simp [isFree, show brIdx h = 0#4 from BitVec.eq_of_toNat_eq h0] at hf

/-- A header that is not free has the entry of its bitrate index, index 1 first (R147). -/
theorem bitrate_eq_getD (hf : isFree h = false) : bitrate p h
    = 1000 * (bitrateColumn p.bitrateKbps (vclass h) (layerNum h)).getD ((brIdx h).toNat - 1) 0 := by
  obtain ⟨i, hi⟩ := Nat.exists_eq_succ_of_ne_zero (brIdx_pos hf).ne'
  simp [bitrate, hi, kbpsEntry]

theorem bitrate_eq_kbpsByFields (hl : layer h ≠ 0b00#2) (hf : isFree h = false) :
    bitrate p h = 1000 * kbpsByFields p h (brIdx h).toNat := by
  rw [bitrate_eq_getD hf, kbpsByFields_eq hl]

theorem version_not_reserved (hv : version h ≠ 0b01#2) :
    version h = 0b11#2 ∨ version h = 0b10#2 ∨ version h = 0b00#2 := by
  generalize version h = v at *
  revert v
  decide

theorem samplingRate_eq_hzByFields (hv : version h ≠ 0b01#2) : samplingRate p h = hzByFields p h := by
  obtain hv | hv | hv := version_not_reserved hv <;>
    simp [samplingRate, hzByFields, srateRow, extractLsb_version, extractLsb_srIdx, hv]

theorem frameSize_eq_frameBytesByFields (hl : layer h ≠ 0b00#2) :
    frameSize p h = frameBytesByFields h (bitrate p h) (samplingRate p h) := by
  rw [frameSize, frameBytesByFields, extractLsb_version, extractLsb_layer]
  obtain ⟨hl, -, hslot, hcoef⟩ | ⟨hl, h144, -, hslot, hcoef⟩ | ⟨hl, hv, -, hslot, hcoef⟩ := coef_cases hl
  · simp [hl, hslot, hcoef, pad]
  · simp [hl, h144, hslot, hcoef, pad]
  · simp [hl, hv, hslot, hcoef, pad]

end

/-! ### With legal parameters the geometry fits 32 bits (R10) -/

section
variable {p : Params} {h : Word}

theorem getD_mem {l : List Nat} {i : Nat} (hi : i < l.length) : l.getD i 0 ∈ l := by
  rw [List.getD_eq_getElem l 0 hi]
  exact List.getElem_mem hi

/-- What holds of every entry of a table, and of 0, holds of what a lookup gives. -/
theorem getD_zero_of_forall {P : Nat → Prop} {l : List Nat} (h : ∀ x ∈ l, P x) (h0 : P 0) (i : Nat) :
    P (l.getD i 0) := by
  obtain hi | hi := Nat.lt_or_ge i l.length
  · exact h _ (getD_mem hi)
  · rw [List.getD_eq_default l 0 hi]
    exact h0

theorem bitrateColumn_le (hp : paramsLegal p = true) (v l : Nat) :
    ∀ k ∈ bitrateColumn p.bitrateKbps v l, k ≤ 29826 := by
  simp only [paramsLegal, bitrateColumnOk, Bool.and_eq_true, List.all_eq_true, decide_eq_true_eq] at hp
  unfold bitrateColumn
  split <;> simp_all

theorem srateRow_lt (hp : paramsLegal p = true) (v : BitVec 2) : ∀ hz ∈ srateRow p.srateHz v, hz < 2 ^ 32 := by
  simp only [paramsLegal, srateRowOk, Bool.and_eq_true, List.all_eq_true, decide_eq_true_eq] at hp
  unfold srateRow
  split_ifs <;> simp_all

theorem bitrate_le (hp : paramsLegal p = true) (hf : isFree h = false) : bitrate p h ≤ 29826000 := by
  rw [bitrate_eq_getD hf]
  exact Nat.mul_le_mul_left 1000 (getD_zero_of_forall (P := (· ≤ 29826)) (bitrateColumn_le hp _ _) (by decide) _)

theorem samplingRate_lt (hp : paramsLegal p = true) (h : Word) : samplingRate p h < 2 ^ 32 :=
  getD_zero_of_forall (P := (· < 2 ^ 32)) (srateRow_lt hp _) (by decide) _

/-- At the largest legal bitrate and 1 Hz, a padded frame still has less than 2^32 bytes (log entry 6). -/
theorem frameSize_lt (hp : paramsLegal p = true) (hl : layer h ≠ 0b00#2) (hf : isFree h = false) :
    frameSize p h < 2 ^ 32 := by
  have hslots : coef h * bitrate p h / samplingRate p h ≤ coef h * 29826000 :=
    (Nat.div_le_self _ _).trans (Nat.mul_le_mul_left _ (bitrate_le hp hf))
  have hpad := pad_le h
  obtain ⟨-, -, hslot, hcoef⟩ | ⟨-, -, -, hslot, hcoef⟩ | ⟨-, -, -, hslot, hcoef⟩ := coef_cases hl
  all_goals
    rw [hcoef] at hslots
    rw [frameSize, hcoef, hslot]
    omega

/-! ### Group H for a header (R156, R159) -/

theorem toNat_ofNat_ite {c : Bool} {n : Nat} (hc : c = true) (hn : n < 2 ^ 32) :
    (if c then BitVec.ofNat 32 n else 0).toNat = n := by
  rw [if_pos hc]
  exact Nat.mod_eq_of_lt hn

theorem headerRegs_valid (hp : paramsLegal p = true) (hv : valid p h = true) :
    (headerRegs p h).srate.toNat = samplingRate p h ∧ (headerRegs p h).spf.toNat = spf h
    ∧ (headerRegs p h).sideInfo.toNat = sideInfoSize h ∧ (headerRegs p h).dataOffset.toNat = dataOffset h :=
  ⟨toNat_ofNat_ite hv (samplingRate_lt hp h), toNat_ofNat_ite hv ((spf_le h).trans_lt (by decide)),
    toNat_ofNat_ite hv ((sideInfoSize_le h).trans_lt (by decide)),
    toNat_ofNat_ite hv ((dataOffset_le h).trans_lt (by decide))⟩

theorem headerRegs_not_free (hp : paramsLegal p = true) (hv : valid p h = true) (hf : isFree h = false) :
    (headerRegs p h).bitrate.toNat = bitrate p h ∧ (headerRegs p h).frameSize.toNat = frameSize p h := by
  have hdef : (valid p h && !isFree h) = true := by simp [hv, hf]
  obtain ⟨-, -, hlayer, -, -, -, -⟩ := valid_iff.1 hv
  exact ⟨toNat_ofNat_ite hdef ((bitrate_le hp hf).trans_lt (by decide)),
    toNat_ofNat_ite hdef (frameSize_lt hp hlayer hf)⟩

theorem headerRegs_undefined_size (h0 : valid p h = false ∨ isFree h = true) :
    (headerRegs p h).bitrate = 0 ∧ (headerRegs p h).frameSize = 0 := by
  have hdef : ¬(valid p h && !isFree h) = true := by obtain h0 | h0 := h0 <;> simp [h0]
  exact ⟨if_neg hdef, if_neg hdef⟩

theorem headerRegs_invalid (hv : valid p h = false) : (headerRegs p h).srate = 0 ∧ (headerRegs p h).spf = 0
    ∧ (headerRegs p h).sideInfo = 0 ∧ (headerRegs p h).dataOffset = 0 := by
  simp [headerRegs, hv]

end

/-! ### Frame sizes under the default tables (R152) -/

section
variable {p : Params} {h : Word}

theorem bitrateColumn_default_length : ∀ v ∈ [1, 2], ∀ l ∈ [1, 2, 3],
    (bitrateColumn bitrateKbpsDefault v l).length = 14 := by decide

theorem srateRow_default_length : ∀ v : BitVec 2, v ≠ 0b01#2 → (srateRow srateHzDefault v).length = 3 := by decide

theorem vclass_mem (h : Word) : vclass h ∈ [1, 2] := by
  unfold vclass
  split <;> decide

theorem layerNum_mem (hl : layer h ≠ 0b00#2) : layerNum h ∈ [1, 2, 3] := by
  obtain hl | hl | hl := layer_cases hl
  · simp [layerNum_layer1 hl]
  · simp [layerNum_layer2 hl]
  · simp [layerNum_layer3 hl]

theorem layerNum_not_layer1 (hl : layer h ≠ 0b00#2) (h1 : layer h ≠ 0b11#2) : layerNum h ∈ [2, 3] := by
  obtain hl | hl | hl := layer_cases hl
  · exact absurd hl h1
  · simp [layerNum_layer2 hl]
  · simp [layerNum_layer3 hl]

theorem bitrate_default_mem (ht : p.bitrateKbps = bitrateKbpsDefault) (hl : layer h ≠ 0b00#2) (hbr : brIdx h ≠ 0xF#4)
    (hf : isFree h = false) :
    ∃ k ∈ bitrateColumn bitrateKbpsDefault (vclass h) (layerNum h), bitrate p h = 1000 * k := by
  have hpos := brIdx_pos hf
  have hlt : (brIdx h).toNat - 1 < 14 := by bv_omega
  rw [← bitrateColumn_default_length _ (vclass_mem h) _ (layerNum_mem hl)] at hlt
  exact ⟨_, getD_mem hlt, ht ▸ bitrate_eq_getD hf⟩

theorem samplingRate_default_mem (ht : p.srateHz = srateHzDefault) (hv : version h ≠ 0b01#2) (hsr : srIdx h ≠ 0b11#2) :
    samplingRate p h ∈ srateRow srateHzDefault (version h) := by
  have hlt : (srIdx h).toNat < 3 := by bv_omega
  rw [← srateRow_default_length _ hv] at hlt
  rw [samplingRate, ht]
  exact getD_mem hlt

/-- The slots of a frame lie between those of the lowest bitrate at the highest rate and of the highest bitrate at the
lowest rate. -/
theorem slots_between {c k k0 k1 z z0 z1 : Nat} (hk : k0 ≤ k ∧ k ≤ k1) (hz : z0 ≤ z ∧ z ≤ z1) (h0 : 0 < z0) :
    c * (1000 * k0) / z1 ≤ c * (1000 * k) / z ∧ c * (1000 * k) / z ≤ c * (1000 * k1) / z0 := by
  obtain ⟨hk0, hk1⟩ := hk
  obtain ⟨hz0, hz1⟩ := hz
  exact ⟨Nat.div_le_div (by gcongr) hz1 (by omega), Nat.div_le_div (by gcongr) hz0 (by omega)⟩

/-! The lowest and highest entry of the columns and rows each class of headers can name. -/

theorem bitrateColumn_default_layer1 : ∀ v ∈ [1, 2], ∀ k ∈ bitrateColumn bitrateKbpsDefault v 1,
    32 ≤ k ∧ k ≤ 448 := by decide

theorem bitrateColumn_default_mpeg1 : ∀ l ∈ [2, 3], ∀ k ∈ bitrateColumn bitrateKbpsDefault 1 l,
    32 ≤ k ∧ k ≤ 384 := by decide

theorem bitrateColumn_default_not_mpeg1 : ∀ l ∈ [2, 3], ∀ k ∈ bitrateColumn bitrateKbpsDefault 2 l,
    8 ≤ k ∧ k ≤ 160 := by decide

theorem srateRow_default : ∀ v : BitVec 2, ∀ z ∈ srateRow srateHzDefault v, 8000 ≤ z ∧ z ≤ 48000 := by decide

theorem srateRow_default_mpeg1 : ∀ z ∈ srateRow srateHzDefault 0b11#2, 32000 ≤ z ∧ z ≤ 48000 := by decide

theorem srateRow_default_not_mpeg1 : ∀ v : BitVec 2, v ≠ 0b11#2 →
    ∀ z ∈ srateRow srateHzDefault v, 8000 ≤ z ∧ z ≤ 24000 := by decide

/-- The bounds of R152 hold in a class of headers, of one coefficient and slot size, when they hold at its extreme
bitrates and rates. -/
theorem frameSize_bounds_of_class {c n k0 k1 z0 z1 : Nat} (hkbps : p.bitrateKbps = bitrateKbpsDefault)
    (hhz : p.srateHz = srateHzDefault) (hv : valid p h = true) (hf : isFree h = false)
    (hcoef : coef h = c) (hslot : slot h = n)
    (hcol : ∀ k ∈ bitrateColumn bitrateKbpsDefault (vclass h) (layerNum h), k0 ≤ k ∧ k ≤ k1)
    (hrow : ∀ z ∈ srateRow srateHzDefault (version h), z0 ≤ z ∧ z ≤ z1) (h0 : 0 < z0)
    (hproduct : c * (1000 * k1) ≤ 55296000) (hlow : 24 ≤ c * (1000 * k0) / z1 * n)
    (hhigh : (c * (1000 * k1) / z0 + 1) * n ≤ 2881) :
    coef h * bitrate p h ≤ 55296000 ∧ 24 ≤ frameSize p h ∧ frameSize p h ≤ 2881 := by
  obtain ⟨-, hver, hlayer, hbr, hsr, -, -⟩ := valid_iff.1 hv
  obtain ⟨k, hk, hbitrate⟩ := bitrate_default_mem hkbps hlayer hbr hf
  obtain ⟨hge, hle⟩ := slots_between (c := c) (hcol k hk) (hrow _ (samplingRate_default_mem hhz hver hsr)) h0
  have hpad := pad_le h
  rw [frameSize, hcoef, hslot, hbitrate]
  refine ⟨le_trans ?_ hproduct, hlow.trans ?_, le_trans ?_ hhigh⟩
  · exact Nat.mul_le_mul_left c (Nat.mul_le_mul_left 1000 (hcol k hk).2)
  · exact Nat.mul_le_mul_right n (by omega)
  · exact Nat.mul_le_mul_right n (by omega)

theorem frameSize_default_bounds (hkbps : p.bitrateKbps = bitrateKbpsDefault) (hhz : p.srateHz = srateHzDefault)
    (hv : valid p h = true) (hf : isFree h = false) :
    coef h * bitrate p h ≤ 55296000 ∧ 24 ≤ frameSize p h ∧ frameSize p h ≤ 2881 := by
  obtain ⟨-, -, hlayer, -, -, -, -⟩ := valid_iff.1 hv
  obtain ⟨hl, -, hslot, hcoef⟩ | ⟨hl, h144, -, hslot, hcoef⟩ | ⟨hl, hver, -, hslot, hcoef⟩ := coef_cases hlayer
  · have hcol := bitrateColumn_default_layer1 _ (vclass_mem h)
    rw [← layerNum_layer1 hl] at hcol
    exact frameSize_bounds_of_class hkbps hhz hv hf hcoef hslot hcol (srateRow_default _) (by decide) (by decide)
      (by decide) (by decide)
  · by_cases hver : version h = 0b11#2
    · have hcol := bitrateColumn_default_mpeg1 _ (layerNum_not_layer1 hlayer hl)
      rw [← vclass_mpeg1 hver] at hcol
      exact frameSize_bounds_of_class hkbps hhz hv hf hcoef hslot hcol (hver ▸ srateRow_default_mpeg1) (by decide)
        (by decide) (by decide) (by decide)
    · have hcol := bitrateColumn_default_not_mpeg1 _ (layerNum_not_layer1 hlayer hl)
      rw [← vclass_not_mpeg1 hver] at hcol
      exact frameSize_bounds_of_class hkbps hhz hv hf hcoef hslot hcol (srateRow_default_not_mpeg1 _ hver) (by decide)
        (by decide) (by decide) (by decide)
  · have hcol := bitrateColumn_default_not_mpeg1 3 (by decide)
    rw [← vclass_not_mpeg1 hver, ← layerNum_layer3 hl] at hcol
    exact frameSize_bounds_of_class hkbps hhz hv hf hcoef hslot hcol (srateRow_default_not_mpeg1 _ hver) (by decide)
      (by decide) (by decide) (by decide)

end

/-! ### The four bytes of a header in the buffer (R63) -/

theorem memRead4_bytes (m : Memory) (a : Nat) :
    (memRead4 m a).extractLsb 31 24 = m.byte a ∧ (memRead4 m a).extractLsb 23 16 = m.byte (a + 1)
    ∧ (memRead4 m a).extractLsb 15 8 = m.byte (a + 2) ∧ (memRead4 m a).extractLsb 7 0 = m.byte (a + 3) := by
  refine ⟨?_, ?_, ?_, BitVec.extractLsb'_append_eq_right⟩
  · calc (memRead4 m a).extractLsb' 24 8
      _ = (m.byte a ++ m.byte (a + 1) ++ m.byte (a + 2)).extractLsb' 16 8 :=
        BitVec.extractLsb'_append_eq_of_le (by decide)
      _ = (m.byte a ++ m.byte (a + 1)).extractLsb' 8 8 := BitVec.extractLsb'_append_eq_of_le (by decide)
      _ = m.byte a := BitVec.extractLsb'_append_eq_left
  · calc (memRead4 m a).extractLsb' 16 8
      _ = (m.byte a ++ m.byte (a + 1) ++ m.byte (a + 2)).extractLsb' 8 8 :=
        BitVec.extractLsb'_append_eq_of_le (by decide)
      _ = (m.byte a ++ m.byte (a + 1)).extractLsb' 0 8 := BitVec.extractLsb'_append_eq_of_le (by decide)
      _ = m.byte (a + 1) := BitVec.extractLsb'_append_eq_right
  · calc (memRead4 m a).extractLsb' 8 8
      _ = (m.byte a ++ m.byte (a + 1) ++ m.byte (a + 2)).extractLsb' 0 8 :=
        BitVec.extractLsb'_append_eq_of_le (by decide)
      _ = m.byte (a + 2) := BitVec.extractLsb'_append_eq_right

/-! ### The commands -/

section
variable {s : State}

theorem exec_decode (s : State) : exec .decode s = .next (decodeHeader s.arg0 s) := rfl

theorem exec_decodeMem_inside (hb : s.arg0.toNat + 4 ≤ s.bufLen.toNat) :
    exec .decodeMem s = .next (decodeHeader (memRead4 s.buf s.arg0.toNat) s) := by
  have hread : hdrAt (inputOf s) (offsetOperand s) = some (memRead4 s.buf s.arg0.toNat) := hdrAt_eq_some.2 ⟨hb, rfl⟩
  simp only [exec, execDecodeMem, hread]

theorem exec_decodeMem_outside (hb : s.bufLen.toNat < s.arg0.toNat + 4) :
    exec .decodeMem s = .next (complete .bufferBounds s) := by
  have hread : hdrAt (inputOf s) (offsetOperand s) = none := hdrAt_eq_none.2 hb
  simp only [exec, execDecodeMem, hread]

/-- Where the header comes from does not show: with ARG0 holding it, decoding gives the same registers but ARG0. -/
theorem regValue_decodeHeader_arg0 (h : Word) (s : State) {r : Reg} (hr : r ≠ .arg0) :
    regValue (decodeHeader h s) r = regValue (decodeHeader h { s with arg0 := h }) r :=
  (regValue_with_arg0 (decodeHeader h s) s.agenda h hr).symm

end

end Sys2Proof.Machine

namespace Sys2Proof

open Machine

/-- Settles O37: every class of version and layer keeps the bounds at its extreme bitrates and rates, and each extreme
size has its header. -/
theorem frameSizesLieBetween24And2881 : Obligations.FrameSizesLieBetween24And2881 :=
  ⟨fun _ _ => frameSize_default_bounds, by decide, by decide, by decide, by decide⟩

/-- Settles O39: DECODE completes with the registers of its header, each of which fits its 32 bits. -/
theorem decodeWritesTheGeometry : Obligations.DecodeWritesTheGeometry := by
  intro s hp
  refine ⟨_, exec_decode s, rfl, rfl, rfl, rfl, rfl, fun hv => ?_, fun hv hf => ?_, headerRegs_undefined_size,
    headerRegs_invalid⟩
  · obtain ⟨hsrate, hspf, hside, hdata⟩ := headerRegs_valid hp hv
    obtain ⟨-, hver, -, -, -, -, -⟩ := valid_iff.1 hv
    exact ⟨hsrate, hsrate.trans (samplingRate_eq_hzByFields hver), hspf, hside, hdata⟩
  · obtain ⟨hsrate, -, -, -⟩ := headerRegs_valid hp hv
    obtain ⟨hbitrate, hsize⟩ := headerRegs_not_free hp hv hf
    obtain ⟨-, -, hlayer, -, -, -, -⟩ := valid_iff.1 hv
    refine ⟨hbitrate, hbitrate.trans (bitrate_eq_kbpsByFields hlayer hf), hsize, hsize.trans ?_⟩
    rw [frameSize_eq_frameBytesByFields hlayer, ← hbitrate, ← hsrate]
    rfl

/-- Settles O40: in bounds the word read is the header of a DECODE; out of bounds only STATUS is written. -/
theorem decodeMemReadsBigEndian : Obligations.DecodeMemReadsBigEndian := fun s =>
  ⟨fun hb => ⟨_, _, memRead4 s.buf s.arg0.toNat, exec_decodeMem_inside hb, exec_decode _,
      fun _ hr => regValue_decodeHeader_arg0 _ s hr, memRead4_bytes s.buf s.arg0.toNat⟩,
    fun hb => ⟨_, exec_decodeMem_outside hb, rfl, fun _ hr => regValue_complete _ s hr⟩⟩

/-- Settles O31: the seven checks, with the fields written as their bits. -/
theorem validIffEveryCheckPasses : Obligations.ValidIffEveryCheckPasses := fun _ _ => valid_iff

/-- Settles O32: one rule for each width of the sync word and for each side of the mode check. -/
theorem syncAndModeChecks : Obligations.SyncAndModeChecks := fun _ _ =>
  ⟨syncOk_11, syncOk_12, modeOk_not_mpeg1Layer2, modeOk_mpeg1Layer2⟩

/-- Settles O34: COMPAT_MASK covers the five fields and nothing else. -/
theorem compatIffMaskedFieldsAgree : Obligations.CompatIffMaskedFieldsAgree := fun _ _ =>
  ⟨compat_iff_masked, compat_iff_fields⟩

/-- Settles O35: the values of each layer and version, by which the coefficient is exact for every layer. -/
theorem samplesAndSlots : Obligations.SamplesAndSlots := by
  intro h
  refine ⟨samples_layer1, samples_layer2, fun hl => ⟨slot_layer3 hl, fun hv => ?_, fun hv => ?_⟩, coef_exact⟩
  · obtain ⟨hspf, -, hcoef⟩ := samples_layer3_mpeg1 hl hv
    exact ⟨hspf, hcoef⟩
  · obtain ⟨hspf, -, hcoef⟩ := samples_layer3_not_mpeg1 hl hv
    exact ⟨hspf, hcoef⟩

/-- Settles O36: side information is the table of R154, and the protection bit 16 is in none of the fields it reads. -/
theorem sideInfoAndDataOffset : Obligations.SideInfoAndDataOffset := by
  intro h
  refine ⟨sideInfoSize_layer3, ?_, rfl, ?_⟩
  · rintro (hl | hl)
    · exact sideInfoSize_not_layer3 (by simp [layerNum_layer1 hl])
    · exact sideInfoSize_not_layer3 (by simp [layerNum_layer2 hl])
  · have hbits : ((h ^^^ 0x00010000#32) ^^^ h) &&& 0xFFFEFFFF#32 = 0 := by
      rw [BitVec.xor_comm, ← BitVec.xor_assoc, BitVec.xor_self, BitVec.zero_xor]
      decide
    exact congrArg (4 + ·) (sideInfoSize_congr (extractLsb_eq_of_masked hbits (by decide))
      (extractLsb_eq_of_masked hbits (by decide)) (extractLsb_eq_of_masked hbits (by decide)))

/-- Settles O41: the bits of COMPAT are its fields. -/
theorem compareReportsCompatibility : Obligations.CompareReportsCompatibility := by
  intro s
  obtain ⟨heq, ha, hb, hreserved⟩ := Compat.toWord_bits (compatOf s.params s.arg0 s.arg1)
  exact ⟨_, rfl, rfl, heq, ha, hb, hreserved, rfl⟩

end Sys2Proof
end

section
/-! SUPPORT. 42_frame_sync.md: the probe and the command that reports it. -/

namespace Sys2Proof.Machine

/-! ### The probe (R192 to R194) -/

section
variable {d : Input} {o n s z : Nat} {h : Word}

/-- A size at which a probe stops: it satisfies R193 and the header after it is valid (R194). -/
def ProbeHit (d : Input) (o : Nat) (h : Word) (s : Nat) : Prop :=
  probeCond d.params h s = true ∧ isCandidate d (o + s) = true

theorem not_probeHit_of_none {s' : Nat} (hn : hdrAt d (o + s) = none) (hs : s ≤ s') : ¬ProbeHit d o h s' := by
  rintro ⟨-, hc⟩
  rw [isCandidate_of_none (hdrAt_none_later hn (Nat.add_le_add_left hs o))] at hc
  cases hc

theorem probeFrom_leaves_buffer (hn : hdrAt d (o + s) = none) : probeFrom d o h (n + 1) s = none := by
  simp [probeFrom, hn]

theorem probeFrom_hit (hit : ProbeHit d o h s) : probeFrom d o h (n + 1) s = some s := by
  obtain ⟨hcond, hcand⟩ := hit
  obtain ⟨next, hn, hv⟩ := isCandidate_iff.1 hcand
  simp [probeFrom, hn, hcond, hv]

theorem probeFrom_miss {next : Word} (hn : hdrAt d (o + s) = some next) (miss : ¬ProbeHit d o h s) :
    probeFrom d o h (n + 1) s = probeFrom d o h n (s + 1) := by
  have hboth : ¬(probeCond d.params h s = true ∧ valid d.params next = true) := by
    rwa [ProbeHit, isCandidate_of_some hn] at miss
  simp [probeFrom, hn, hboth]

/-- Of `n` sizes from `s` on, a probe gives the first hit (R194). -/
theorem probeFrom_eq_some : probeFrom d o h n s = some z ↔
    s ≤ z ∧ z < s + n ∧ ProbeHit d o h z ∧ ∀ y, s ≤ y → y < z → ¬ProbeHit d o h y := by
  induction n generalizing s with
  | zero =>
    refine ⟨nofun, ?_⟩
    rintro ⟨hs, hz, -, -⟩
    omega
  | succ n ih =>
    by_cases hit : ProbeHit d o h s
    · rw [probeFrom_hit hit, Option.some_inj]
      constructor
      · rintro rfl
        exact ⟨le_rfl, by omega, hit, fun y h1 h2 => absurd h2 (by omega)⟩
      · rintro ⟨hs, -, -, hfirst⟩
        exact le_antisymm hs (not_lt.1 fun hlt => hfirst s le_rfl hlt hit)
    · cases hn : hdrAt d (o + s) with
      | none =>
        rw [probeFrom_leaves_buffer hn]
        refine ⟨nofun, ?_⟩
        rintro ⟨hs, -, hz, -⟩
        exact absurd hz (not_probeHit_of_none hn hs)
      | some next =>
        rw [probeFrom_miss hn hit, ih]
        constructor
        · rintro ⟨hs, hz, hzhit, hfirst⟩
          refine ⟨by omega, by omega, hzhit, fun y h1 h2 => ?_⟩
          obtain rfl | h1 := eq_or_lt_of_le h1
          · exact hit
          · exact hfirst y h1 h2
        · rintro ⟨hs, hz, hzhit, hfirst⟩
          have hne : s ≠ z := by
            rintro rfl
            exact hit hzhit
          exact ⟨by omega, by omega, hzhit, fun y h1 h2 => hfirst y (by omega) h2⟩

/-- A probe fails iff none of its sizes is a hit (R194). -/
theorem probeFrom_eq_none : probeFrom d o h n s = none ↔ ∀ y, s ≤ y → y < s + n → ¬ProbeHit d o h y := by
  constructor
  · intro hnone y
    induction y using Nat.strong_induction_on with
    | _ y ih =>
      intro hs hlt hit
      have hsome : probeFrom d o h n s = some y :=
        probeFrom_eq_some.2 ⟨hs, hlt, hit, fun x h1 h2 => ih x h2 h1 (h2.trans hlt)⟩
      rw [hnone] at hsome
      cases hsome
  · intro hno
    refine Option.eq_none_iff_forall_ne_some.2 fun z hz => ?_
    obtain ⟨hs, hlt, hit, -⟩ := probeFrom_eq_some.1 hz
    exact hno z hs hlt hit

theorem probe_eq_probeFrom (hh : hdrAt d o = some h) :
    probe d o = probeFrom d o h (maxFreeSize d.params h + 1 - headerSize) headerSize := by
  simp [probe, hh]

theorem probe_eq_some (hh : hdrAt d o = some h) : probe d o = some z ↔
    4 ≤ z ∧ z ≤ maxFreeSize d.params h ∧ ProbeHit d o h z ∧ ∀ y, 4 ≤ y → y < z → ¬ProbeHit d o h y := by
  rw [probe_eq_probeFrom hh, probeFrom_eq_some, headerSize]
  refine and_congr_right fun h4 => and_congr_left fun _ => ?_
  omega

theorem probe_eq_none (hh : hdrAt d o = some h) : probe d o = none ↔
    ∀ y, 4 ≤ y → y ≤ maxFreeSize d.params h → ¬ProbeHit d o h y := by
  rw [probe_eq_probeFrom hh, probeFrom_eq_none, headerSize]
  refine forall₂_congr fun y h4 => imp_congr_left ?_
  omega

end

/-! The bound and the condition on the header's own bits (R192, R193). -/

section
variable {p : Params} {h : Word}

/-- Another bitrate index leaves every bit outside 15:12 alone. -/
theorem withBrIdx_masked (h : Word) (i : BitVec 4) : (withBrIdx h i ^^^ h) &&& 0xFFFF0FFF#32 = 0 := by
  have hindex : (i.setWidth 32 <<< 12) &&& 0xFFFF0FFF#32 = 0 := by
    revert i
    decide
  refine BitVec.eq_of_getLsbD_eq fun j hj => ?_
  have hbit := congrArg (·.getLsbD j) hindex
  clear hindex
  cases hm : (0xFFFF0FFF#32).getLsbD j <;> simp_all [withBrIdx]

theorem brIdx_withBrIdx (h : Word) (i : BitVec 4) : brIdx (withBrIdx h i) = i := by
  ext j hj
  interval_cases j <;> simp [brIdx, withBrIdx]

/-- The frame size of a header that agrees with `h` outside the bitrate index, on the bits of `h`. -/
theorem frameSize_of_masked {g : Word} (hmask : (g ^^^ h) &&& 0xFFFF0FFF#32 = 0) (hver : version h ≠ 0b01#2)
    (hlayer : layer h ≠ 0b00#2) (hf : isFree g = false) : frameSize p g
      = frameBytesByFields h (1000 * kbpsByFields p h (brIdx g).toNat) (hzByFields p h) := by
  have hv : g.extractLsb 20 19 = h.extractLsb 20 19 := extractLsb_eq_of_masked hmask (by decide)
  have hl : g.extractLsb 18 17 = h.extractLsb 18 17 := extractLsb_eq_of_masked hmask (by decide)
  have hsr : g.extractLsb 11 10 = h.extractLsb 11 10 := extractLsb_eq_of_masked hmask (by decide)
  have hpad : g.getLsbD 9 = h.getLsbD 9 := getLsbD_eq_of_masked hmask (by decide)
  have hkbps : kbpsByFields p g (brIdx g).toNat = kbpsByFields p h (brIdx g).toNat := by
    rw [kbpsByFields, kbpsByFields, hv, hl]
  have hhz : hzByFields p g = hzByFields p h := by
    rw [hzByFields, hzByFields, hv, hsr]
  rw [frameSize_eq_frameBytesByFields (hl.trans_ne hlayer), bitrate_eq_kbpsByFields (hl.trans_ne hlayer) hf,
    samplingRate_eq_hzByFields (hv.trans_ne hver), hkbps, hhz, frameBytesByFields,
    frameBytesByFields, hv, hl, hpad]

/-- The probe's bound is the frame size at bitrate index 14 with the header's own other fields (R192). -/
theorem maxFreeSize_eq (hv : valid p h = true) :
    maxFreeSize p h = frameBytesByFields h (1000 * kbpsByFields p h 14) (hzByFields p h) := by
  obtain ⟨-, hver, hlayer, -, -, -, -⟩ := valid_iff.1 hv
  have hbr := brIdx_withBrIdx h 14
  have hf : isFree (withBrIdx h 14) = false := by rw [isFree, hbr]; rfl
  rw [maxFreeSize, frameSize_of_masked (withBrIdx_masked h 14) hver hlayer hf, hbr]
  rfl

/-- The probe's condition with the divisor of each layer and version written out (R193). -/
theorem probeCond_iff (hv : valid p h = true) (z : Nat) : probeCond p h z = true ↔
    if layer h = 0b11#2 then z % 4 = 0 ∧ (z / 4 - pad h) * hzByFields p h % 48 = 0
    else if layer h = 0b10#2 ∨ version h = 0b11#2 then (z - pad h) * hzByFields p h % 144 = 0
    else (z - pad h) * hzByFields p h % 72 = 0 := by
  obtain ⟨-, hver, hlayer, -, -, -, -⟩ := valid_iff.1 hv
  rw [probeCond, samplingRate_eq_hzByFields hver]
  obtain ⟨hl, hspf, hslot, -⟩ | ⟨hl, h144, hspf, hslot, -⟩ | ⟨hl, hv3, hspf, hslot, -⟩ := coef_cases hlayer
  · simp [hl, hspf, hslot]
  · simp [hl, h144, hspf, hslot, Nat.mod_one]
  · simp [hl, hv3, hspf, hslot, Nat.mod_one]

end

/-! PROBE, one equation per row of R212. -/

section
variable {d : Input} {o : Nat} {h : Word}

theorem probeCommand_outOfBuffer (hh : hdrAt d o = none) : probeCommand d o = (0, .bufferBounds) := by
  simp [probeCommand, hh]

theorem probeCommand_invalid (hh : hdrAt d o = some h) (hv : valid d.params h = false) :
    probeCommand d o = (0, .invalidHeader) := by
  simp [probeCommand, hh, hv]

theorem probeCommand_not_free (hh : hdrAt d o = some h) (hv : valid d.params h = true) (hf : isFree h = false) :
    probeCommand d o = (0, .unsupported) := by
  simp [probeCommand, hh, hv, hf]

theorem probeCommand_found {size : Nat} (hh : hdrAt d o = some h) (hv : valid d.params h = true)
    (hf : isFree h = true) (hs : probe d o = some size) : probeCommand d o = (size, .none) := by
  simp [probeCommand, hh, hv, hf, hs]

theorem probeCommand_not_found (hh : hdrAt d o = some h) (hv : valid d.params h = true) (hf : isFree h = true)
    (hs : probe d o = none) : probeCommand d o = (0, .freeProbeFailed) := by
  simp [probeCommand, hh, hv, hf, hs]

/-- PROBE completes with PROBE_SIZE and the error that `probeCommand` gives. -/
theorem exec_probe {s : State} {r : Nat × ErrCode} (hr : probeCommand (inputOf s) s.arg0.toNat = r) :
    exec .probe s = .next (complete r.2 { s with probeSize := BitVec.ofNat 32 r.1 }) := by
  subst hr
  rfl

end

end Sys2Proof.Machine

namespace Sys2Proof

open Machine

/-- Settles O42: the first hit of `probeFrom`, and the bound and the condition by layer and version. -/
theorem probeFindsTheFirstSize : Obligations.ProbeFindsTheFirstSize := fun _ _ _ hh =>
  ⟨fun _ => (probe_eq_some hh).trans (and_congr_right fun _ => and_congr_right fun _ => and_assoc),
    probe_eq_none hh, fun hv => ⟨maxFreeSize_eq hv, probeCond_iff hv⟩⟩

/-- Settles O43: `probeCommand` names the size and the error of each row, and a size found lies below BUF_LEN. -/
theorem probeCommandReports : Obligations.ProbeCommandReports := by
  intro s d o
  have hlen : d.len < 2 ^ 32 := inputOf_len_lt s
  refine ⟨_, exec_probe (r := probeCommand d o) rfl, rfl, rfl, fun hh => ?_, fun h hh =>
    ⟨fun hv => ?_, fun hv hf => ?_, fun hv hf => ⟨fun size hs => ?_, fun hs => ?_⟩⟩⟩
  · simp [probeCommand_outOfBuffer hh, regValue]
  · simp [probeCommand_invalid hh hv, regValue]
  · simp [probeCommand_not_free hh hv hf, regValue]
  · have hlt : size < 2 ^ 32 := by
      obtain ⟨-, hl⟩ := probe_some hs
      omega
    simpa [probeCommand_found hh hv hf hs, regValue] using hlt
  · simp [probeCommand_not_found hh hv hf hs, regValue]

end Sys2Proof
end

section
/-! SUPPORT. 42_frame_sync.md: the confirmation as a chain of headers, and the command that reports it. -/

namespace Sys2Proof.Machine

/-! ### One header of a confirmation: an equation per check (R197, R198) -/

section
variable {d : Input} {more k pos : Nat} {first : Option Word} {h : Word}

theorem confirmFrom_outOfBuffer (hh : hdrAt d pos = none) :
    confirmFrom d more k pos first = ⟨false, k, .outOfBuffer⟩ := by
  cases more <;> simp [confirmFrom, hh]

theorem confirmFrom_invalid (hh : hdrAt d pos = some h) (hv : valid d.params h = false) :
    confirmFrom d more k pos first = ⟨false, k, .invalid⟩ := by
  cases more <;> simp [confirmFrom, hh, hv]

theorem confirmFrom_incompatible (hh : hdrAt d pos = some h) (hv : valid d.params h = true)
    (hc : compat h (first.getD h) = false) : confirmFrom d more k pos first = ⟨false, k, .incompatible⟩ := by
  cases more <;> simp [confirmFrom, hh, hv, hc]

theorem confirmFrom_last (hh : hdrAt d pos = some h) (hv : valid d.params h = true)
    (hc : compat h (first.getD h) = true) : confirmFrom d 0 k pos first = ⟨true, k + 1, .confirmed⟩ := by
  simp [confirmFrom, hh, hv, hc]

theorem confirmFrom_probeFailed (hh : hdrAt d pos = some h) (hv : valid d.params h = true)
    (hc : compat h (first.getD h) = true) (hl : frameLen d pos h = none) :
    confirmFrom d (more + 1) k pos first = ⟨false, k + 1, .probeFailed⟩ := by
  simp [confirmFrom, hh, hv, hc, hl]

theorem confirmFrom_next {len : Nat} (hh : hdrAt d pos = some h) (hv : valid d.params h = true)
    (hc : compat h (first.getD h) = true) (hl : frameLen d pos h = some len) :
    confirmFrom d (more + 1) k pos first = confirmFrom d more (k + 1) (pos + len) (some (first.getD h)) := by
  simp [confirmFrom, hh, hv, hc, hl]

end

theorem compat_self (h : Word) : compat h h = true := by simp [compat]

/-! ### The chain of headers (R196, R197) -/

section
variable {d : Input} {c k n : Nat} {first h : Word}

/-- Where the header after the one at `a` is looked for; `a` itself where there is no length to add (R196). -/
def nextPos (d : Input) (a : Nat) : Nat := a + (((hdrAt d a).bind (frameLen d a)).getD 0)

/-- Where header `k` of the chain from `c` is looked for. -/
def chainPos (d : Input) (c : Nat) : Nat → Nat
  | 0 => c
  | k + 1 => nextPos d (chainPos d c k)

theorem nextPos_eq {a len : Nat} (hh : hdrAt d a = some h) (hl : frameLen d a h = some len) :
    nextPos d a = a + len := by
  simp [nextPos, hh, hl]

/-- Positions that land on each other are those of the chain from the first. -/
theorem chainPos_of_lands {pos : Nat → Nat} (hl : Lands d pos n) (h0 : pos 0 = c) :
    ∀ k ≤ n, pos k = chainPos d c k := by
  intro k hk
  induction k with
  | zero => exact h0
  | succ k ih =>
    obtain ⟨h, len, hh, hlen, hnext⟩ := hl k hk
    rw [hnext, chainPos, ← ih (Nat.le_of_succ_le hk), nextPos_eq hh hlen]

theorem lands_succ {len : Nat} (hl : Lands d (chainPos d c) k) (hh : hdrAt d (chainPos d c k) = some h)
    (hlen : frameLen d (chainPos d c k) h = some len) : Lands d (chainPos d c) (k + 1) := by
  intro j hj
  obtain hj | rfl := Nat.lt_succ_iff_lt_or_eq.1 hj
  · exact hl j hj
  · exact ⟨h, len, hh, hlen, nextPos_eq hh hlen⟩

theorem accepted_iff (hc : hdrAt d c = some first) {a : Nat} :
    Accepted d c a ↔ ∃ h, hdrAt d a = some h ∧ valid d.params h = true ∧ compat h first = true := by
  simp [Accepted, hc]

/-- The first `k` headers of the chain from `c` are accepted and each has a length. -/
structure ChainTo (d : Input) (c k : Nat) : Prop where
  accepted : ∀ j < k, Accepted d c (chainPos d c j)
  lands : Lands d (chainPos d c) k

/-- Where a confirmation stops on the chain from `c`, and why (R197, R198): one case for each way that the checks of
header `k` can end. -/
inductive StopsAt (d : Input) (c : Nat) : Confirmation → Prop
  | confirmed {k : Nat} (last : k + 1 = d.params.pConfirm) (chain : ChainTo d c k)
      (acc : Accepted d c (chainPos d c k)) : StopsAt d c ⟨true, k + 1, .confirmed⟩
  | outOfBuffer {k : Nat} (hk : k < d.params.pConfirm) (chain : ChainTo d c k)
      (hh : hdrAt d (chainPos d c k) = none) : StopsAt d c ⟨false, k, .outOfBuffer⟩
  | invalid {k : Nat} {h : Word} (hk : k < d.params.pConfirm) (chain : ChainTo d c k)
      (hh : hdrAt d (chainPos d c k) = some h) (hv : valid d.params h = false) : StopsAt d c ⟨false, k, .invalid⟩
  | incompatible {k : Nat} {first h : Word} (hk : k < d.params.pConfirm) (chain : ChainTo d c k)
      (hc : hdrAt d c = some first) (hh : hdrAt d (chainPos d c k) = some h) (hv : valid d.params h = true)
      (hcompat : compat h first = false) : StopsAt d c ⟨false, k, .incompatible⟩
  | probeFailed {k : Nat} {h : Word} (hk : k + 1 < d.params.pConfirm) (chain : ChainTo d c k)
      (acc : Accepted d c (chainPos d c k)) (hh : hdrAt d (chainPos d c k) = some h)
      (hl : frameLen d (chainPos d c k) h = none) : StopsAt d c ⟨false, k + 1, .probeFailed⟩

theorem ChainTo.accepted_succ (hch : ChainTo d c k) (hacc : Accepted d c (chainPos d c k)) :
    ∀ j < k + 1, Accepted d c (chainPos d c j) := by
  intro j hj
  obtain hj | rfl := Nat.lt_succ_iff_lt_or_eq.1 hj
  · exact hch.accepted j hj
  · exact hacc

/-- A header that is not accepted stops the confirmation there. -/
theorem confirmFrom_stopsAt_rejected (hc : hdrAt d c = some first) (hk : k < d.params.pConfirm)
    (hch : ChainTo d c k) (hrej : ¬Accepted d c (chainPos d c k)) (more : Nat) :
    StopsAt d c (confirmFrom d more k (chainPos d c k) (some first)) := by
  cases hh : hdrAt d (chainPos d c k) with
  | none => rw [confirmFrom_outOfBuffer hh]; exact .outOfBuffer hk hch hh
  | some h =>
    cases hv : valid d.params h with
    | false => rw [confirmFrom_invalid hh hv]; exact .invalid hk hch hh hv
    | true =>
      cases hcompat : compat h first with
      | false =>
        rw [confirmFrom_incompatible (first := some first) hh hv hcompat]
        exact .incompatible hk hch hc hh hv hcompat
      | true => exact absurd ((accepted_iff hc).2 ⟨h, hh, hv, hcompat⟩) hrej

/-- A confirmation that has come to header `k` with `more` to follow stops as `StopsAt` says. -/
theorem confirmFrom_stopsAt (hc : hdrAt d c = some first) (more k : Nat) (hk : k + more + 1 = d.params.pConfirm)
    (hch : ChainTo d c k) : StopsAt d c (confirmFrom d more k (chainPos d c k) (some first)) := by
  induction more generalizing k with
  | zero =>
    by_cases hacc : Accepted d c (chainPos d c k)
    · obtain ⟨h, hh, hv, hcompat⟩ := (accepted_iff hc).1 hacc
      rw [confirmFrom_last (first := some first) hh hv hcompat]
      exact .confirmed hk hch hacc
    · exact confirmFrom_stopsAt_rejected hc (by omega) hch hacc 0
  | succ more ih =>
    by_cases hacc : Accepted d c (chainPos d c k)
    · obtain ⟨h, hh, hv, hcompat⟩ := (accepted_iff hc).1 hacc
      cases hl : frameLen d (chainPos d c k) h with
      | none =>
        rw [confirmFrom_probeFailed (first := some first) hh hv hcompat hl]
        exact .probeFailed (by omega) hch hacc hh hl
      | some len =>
        rw [confirmFrom_next (first := some first) hh hv hcompat hl, ← nextPos_eq hh hl]
        exact ih (k + 1) (by omega) ⟨hch.accepted_succ hacc, lands_succ hch.lands hh hl⟩
    · exact confirmFrom_stopsAt_rejected hc (by omega) hch hacc (more + 1)

theorem confirm_stopsAt (d : Input) (c : Nat) (hp : 1 ≤ d.params.pConfirm) : StopsAt d c (confirm d c) := by
  have hch : ChainTo d c 0 := ⟨nofun, nofun⟩
  cases hc : hdrAt d c with
  | none => rw [confirm, confirmFrom_outOfBuffer hc]; exact .outOfBuffer hp hch hc
  | some first => rw [confirm, confirmFrom_first hc]; exact confirmFrom_stopsAt hc _ 0 (by omega) hch

/-- The whole chain holds: P_CONFIRM accepted headers, each but the last with a length (R197). -/
def WholeChain (d : Input) (c : Nat) : Prop :=
  (∀ k < d.params.pConfirm, Accepted d c (chainPos d c k)) ∧ Lands d (chainPos d c) (d.params.pConfirm - 1)

theorem ChainTo.whole (hch : ChainTo d c k) (hk : k + 1 = d.params.pConfirm) (hacc : Accepted d c (chainPos d c k)) :
    WholeChain d c := by
  rw [WholeChain, ← hk]
  exact ⟨hch.accepted_succ hacc, hch.lands⟩

theorem confirm_ok_iff (hp : 1 ≤ d.params.pConfirm) : (confirm d c).ok = true ↔ WholeChain d c := by
  have hstop := confirm_stopsAt d c hp
  generalize confirm d c = r at hstop
  constructor
  · intro hok
    cases hstop with
    | confirmed last chain acc => exact chain.whole last acc
    | outOfBuffer | invalid | incompatible | probeFailed => cases hok
  · rintro ⟨hacc, hlands⟩
    cases hstop with
    | confirmed => rfl
    | outOfBuffer hk _ hh =>
      obtain ⟨_, _, _, hh', -, -⟩ := hacc _ hk
      simp [hh] at hh'
    | invalid hk _ hh hv =>
      obtain ⟨_, _, _, hh', hv', -⟩ := hacc _ hk
      simp_all
    | incompatible hk _ hc hh _ hcompat =>
      obtain ⟨_, _, hc', hh', -, hcompat'⟩ := hacc _ hk
      simp_all
    | probeFailed hk _ _ hh hl =>
      obtain ⟨_, _, hh', hl', -⟩ := hlands _ (Nat.lt_sub_of_add_lt hk)
      simp_all

end

/-- The fields of CONF_RES (R36). -/
theorem ConfRes.toWord_fields (c : ConfRes) : c.toWord.getLsbD 0 = c.ok ∧ c.toWord.extractLsb 3 1 = 0
    ∧ c.toWord.extractLsb 7 4 = c.nacc ∧ c.toWord.extractLsb 11 8 = c.reason.code
    ∧ c.toWord.extractLsb 31 12 = 0 := by
  refine ⟨by simp [ConfRes.toWord, BitVec.getElem_append (m := 1)], ?_, ?_, ?_, ?_⟩
  all_goals
    ext j hj
    interval_cases j <;>
      simp [ConfRes.toWord, BitVec.getElem_append (m := 1), BitVec.getElem_append (m := 3),
        BitVec.getElem_append (m := 4)]

theorem pConfirm_bounds {p : Params} (hp : paramsLegal p = true) : 2 ≤ p.pConfirm ∧ p.pConfirm ≤ 15 := by
  simp only [paramsLegal, Bool.and_eq_true, decide_eq_true_eq] at hp
  omega

end Sys2Proof.Machine

namespace Sys2Proof

open Machine

/-- Settles O44: the positions are those of `chainPos`, and the reasons are the cases of `StopsAt`. -/
theorem confirmReportsTheChain : Obligations.ConfirmReportsTheChain := by
  intro d c hp
  have hstop := confirm_stopsAt d c hp
  generalize confirm d c = r at hstop
  refine ⟨chainPos d c, rfl, ?_⟩
  cases hstop with
  | confirmed last chain acc =>
    obtain ⟨-, hlands⟩ := chain.whole last acc
    exact ⟨chain.accepted_succ acc, rfl, last, hlands⟩
  | outOfBuffer hk chain hh => exact ⟨chain.accepted, rfl, hk, chain.lands, hdrAt_eq_none.1 hh⟩
  | invalid hk chain hh hv => exact ⟨chain.accepted, rfl, hk, chain.lands, _, hh, hv⟩
  | incompatible hk chain hc hh hv hcompat =>
    exact ⟨chain.accepted, rfl, hk, chain.lands, _, _, hc, hh, hv, hcompat⟩
  | probeFailed hk chain acc hh hl =>
    exact ⟨chain.accepted_succ acc, rfl, Nat.le_add_left .., hk, chain.lands, _, hh, frameLen_eq_none.1 hl⟩

/-- Settles O45: positions that land on each other are those of `chainPos`. -/
theorem confirmedIffTheChainHolds : Obligations.ConfirmedIffTheChainHolds := by
  intro d c hp
  rw [confirm_ok_iff hp]
  constructor
  · rintro ⟨hacc, hlands⟩
    exact ⟨chainPos d c, rfl, hacc, hlands⟩
  · rintro ⟨pos, h0, hacc, hlands⟩
    have hpos := chainPos_of_lands hlands h0
    refine ⟨fun k hk => hpos k (Nat.le_sub_one_of_lt hk) ▸ hacc k hk, fun k hk => ?_⟩
    rw [← hpos k hk.le, ← hpos (k + 1) hk]
    exact hlands k hk

/-- Settles O46: CONF_RES shows its fields, and NACC is at most 15. -/
theorem confirmCommandReports : Obligations.ConfirmCommandReports := by
  intro s hp
  obtain ⟨hp2, hp15⟩ := pConfirm_bounds hp
  have hnacc : (confirm (inputOf s) s.arg0.toNat).nacc < 2 ^ 4 := by
    obtain ⟨-, -, hn⟩ | ⟨-, -, hn⟩ := confirm_cases (inputOf s) s.arg0.toNat (Nat.le_of_lt hp2) <;>
      simp only [inputOf] at hn ⊢ <;> omega
  obtain ⟨hok, hlow, hn, hreason, hhigh⟩ :=
    ConfRes.toWord_fields (confResOf (confirm (inputOf s) s.arg0.toNat))
  exact ⟨_, rfl, rfl, rfl, hok, hlow, (congrArg BitVec.toNat hn).trans (Nat.mod_eq_of_lt hnacc), hreason, hhigh, rfl⟩

end Sys2Proof
end

section
/-! SUPPORT. 42_frame_sync.md: the scan, the command that reports it, and the state machine of R201. -/

namespace Sys2Proof.Machine

/-! ### The scan: an equation per offset (R199, R200) -/

section
variable {d : Input} {n o rejects : Nat}

theorem syncFrom_outOfBuffer (hh : hdrAt d o = none) : syncFrom d n o rejects = ⟨false, d.len, rejects⟩ := by
  cases n <;> simp [syncFrom, hh]

theorem syncFrom_found (hcand : isCandidate d o = true) (hok : (confirm d o).ok = true) :
    syncFrom d (n + 1) o rejects = ⟨true, o, rejects⟩ := by
  obtain ⟨h, hh, hv⟩ := isCandidate_iff.1 hcand
  simp [syncFrom, hh, hv, hok]

theorem syncFrom_rejected (hcand : isCandidate d o = true) (hok : (confirm d o).ok = false) :
    syncFrom d (n + 1) o rejects = syncFrom d n (o + 1) (rejects + 1) := by
  obtain ⟨h, hh, hv⟩ := isCandidate_iff.1 hcand
  simp [syncFrom, hh, hv, hok]

theorem syncFrom_no_candidate {h : Word} (hh : hdrAt d o = some h) (hv : valid d.params h = false) :
    syncFrom d (n + 1) o rejects = syncFrom d n (o + 1) rejects := by
  simp [syncFrom, hh, hv]

/-- An offset at which the scan goes on (R202). -/
def PassedOver (d : Input) (o : Nat) : Prop := isCandidate d o = false ∨ (confirm d o).ok = false

/-- What a scan from `o` on, with `rejects` candidates rejected before, comes to (R202). -/
inductive ScanOutcome (d : Input) (o rejects : Nat) : SyncResult → Prop
  | found {c : Nat} (from_start : o ≤ c) (cand : isCandidate d c = true) (ok : (confirm d c).ok = true)
      (passed : ∀ x, o ≤ x → x < c → PassedOver d x) :
      ScanOutcome d o rejects ⟨true, c, rejects + candidatesIn d o c⟩
  | notFound (passed : ∀ x, o ≤ x → PassedOver d x) :
      ScanOutcome d o rejects ⟨false, d.len, rejects + candidatesIn d o d.len⟩

theorem forall_le_of_forall_succ_le {P : Nat → Prop} (h0 : P o) (hs : ∀ x, o + 1 ≤ x → P x) :
    ∀ x, o ≤ x → P x := fun x hx => by
  obtain rfl | hx := eq_or_lt_of_le hx
  · exact h0
  · exact hs x hx

/-- An offset passed over adds to the count only if it is a candidate. -/
theorem ScanOutcome.passOver {r : SyncResult} (hlt : o < d.len) (hpass : PassedOver d o)
    (hr : ScanOutcome d (o + 1) (rejects + (isCandidate d o).toNat) r) : ScanOutcome d o rejects r := by
  cases hr with
  | @found c from_start cand ok passed =>
    rw [Nat.add_assoc, ← candidatesIn_step from_start]
    exact .found (Nat.le_of_succ_le from_start) cand ok
      (forall_le_of_forall_succ_le (fun _ => hpass) passed)
  | notFound passed =>
    rw [Nat.add_assoc, ← candidatesIn_step hlt]
    exact .notFound (forall_le_of_forall_succ_le hpass passed)

theorem passedOver_of_none (hh : hdrAt d o = none) : PassedOver d o := .inl (isCandidate_of_none hh)

theorem scanOutcome_outOfBuffer (hh : hdrAt d o = none) : ScanOutcome d o rejects (syncFrom d n o rejects) := by
  have hout := ScanOutcome.notFound (rejects := rejects) fun x hx => passedOver_of_none (hdrAt_none_later hh hx)
  rwa [candidatesIn_of_none hh, Nat.add_zero, ← syncFrom_outOfBuffer hh] at hout

/-- A scan that may look at every offset up to BUF_LEN comes to its outcome (R200, R202). -/
theorem syncFrom_outcome (hn : d.len ≤ o + n) : ScanOutcome d o rejects (syncFrom d n o rejects) := by
  induction n generalizing o rejects with
  | zero => exact scanOutcome_outOfBuffer (hdrAt_eq_none.2 (by omega))
  | succ n ih =>
    cases hh : hdrAt d o with
    | none => exact scanOutcome_outOfBuffer hh
    | some h =>
      have hlt : o < d.len := by
        obtain ⟨hlen, -⟩ := hdrAt_eq_some.1 hh
        omega
      have hrest : d.len ≤ o + 1 + n := by omega
      cases hcand : isCandidate d o with
      | false =>
        rw [syncFrom_no_candidate hh (isCandidate_of_some hh ▸ hcand)]
        exact .passOver hlt (.inl hcand) (by rw [hcand]; exact ih hrest)
      | true =>
        cases hok : (confirm d o).ok with
        | false =>
          rw [syncFrom_rejected hcand hok]
          exact .passOver hlt (.inr hok) (by rw [hcand]; exact ih hrest)
        | true =>
          have hout := ScanOutcome.found (rejects := rejects) le_rfl hcand hok fun x h1 h2 => absurd h2 (by omega)
          rwa [candidatesIn_self le_rfl, Nat.add_zero, ← syncFrom_found hcand hok] at hout

theorem sync_outcome (d : Input) (start : Nat) : ScanOutcome d start 0 (sync d start) :=
  syncFrom_outcome (by omega)

/-- The last three offsets of the buffer hold no header, so at most the others are candidates (R206). -/
theorem candidatesIn_le (d : Input) (a b : Nat) : candidatesIn d a b ≤ d.len - 3 - a := by
  induction hk : b - a generalizing a with
  | zero => rw [candidatesIn_self (by omega)]; exact Nat.zero_le _
  | succ k ih =>
    have hrest := ih (a + 1) (by omega)
    rw [candidatesIn_step (by omega)]
    cases hcand : isCandidate d a with
    | false => simp only [Bool.toNat_false]; omega
    | true =>
      obtain ⟨h, hh, -⟩ := isCandidate_iff.1 hcand
      obtain ⟨hlen, -⟩ := hdrAt_eq_some.1 hh
      simp only [Bool.toNat_true]
      omega

theorem ScanOutcome.offset_le {r : SyncResult} (hr : ScanOutcome d o rejects r) : r.offset ≤ d.len := by
  cases hr with
  | found from_start cand ok passed =>
    obtain ⟨h, hh, -⟩ := isCandidate_iff.1 cand
    obtain ⟨hlen, -⟩ := hdrAt_eq_some.1 hh
    simp only
    omega
  | notFound => exact le_rfl

theorem ScanOutcome.rejects_le {r : SyncResult} (hr : ScanOutcome d o 0 r) : r.rejects ≤ d.len - 3 := by
  have hle : ∀ b, 0 + candidatesIn d o b ≤ d.len - 3 := fun b => by
    have := candidatesIn_le d o b
    omega
  cases hr with
  | found => exact hle _
  | notFound => exact hle _

theorem sync_outOfBuffer {start : Nat} (hh : hdrAt d start = none) : sync d start = ⟨false, d.len, 0⟩ :=
  syncFrom_outOfBuffer hh

end

/-- A number up to BUF_LEN fits a 32-bit register. -/
theorem toNat_ofNat_of_le {n len : Nat} (hn : n ≤ len) (hlen : len < 2 ^ 32) : (BitVec.ofNat 32 n).toNat = n :=
  Nat.mod_eq_of_lt (hn.trans_lt hlen)

/-- P_CONFIRM spaced valid headers of one kind that is not free are a chain (R203). -/
theorem confirm_ok_of_spaced {d : Input} {m : Nat} {h : Word} (hp : 1 ≤ d.params.pConfirm)
    (hv : valid d.params h = true) (hf : isFree h = false)
    (hrun : ∀ k, k < d.params.pConfirm → hdrAt d (m + k * frameSize d.params h) = some h) :
    (confirm d m).ok = true := by
  have hfirst : hdrAt d m = some h := by simpa using hrun 0 hp
  have hlen : ∀ a, frameLen d a h = some (frameSize d.params h) := fun a => by simp [frameLen, hf]
  refine (confirmedIffTheChainHolds d m hp).2
    ⟨fun k => m + k * frameSize d.params h, by simp, fun k hk => ?_, fun k hk => ?_⟩
  · exact (accepted_iff hfirst).2 ⟨h, hrun k hk, hv, compat_self h⟩
  · exact ⟨h, _, hrun k (by omega), hlen _, by simp only; rw [Nat.succ_mul, Nat.add_assoc]⟩

/-! ### The state machine of R201 -/

section
variable {d : Input}

/-- The state machine comes from one state to another. -/
def Reaches (d : Input) (x y : SyncFsm) : Prop := ∃ n, fsmRun d n x = y

theorem Reaches.refl (x : SyncFsm) : Reaches d x x := ⟨0, rfl⟩

/-- What is reached after one transition is reached. -/
theorem Reaches.head {x x' y : SyncFsm} (hx : fsmNext d x = x') (h : Reaches d x' y) : Reaches d x y := by
  obtain ⟨n, hn⟩ := h
  exact ⟨n + 1, by rw [fsmRun, hx, hn]⟩

theorem Reaches.single {x y : SyncFsm} (hx : fsmNext d x = y) : Reaches d x y := .head hx (.refl y)

theorem fsmRun_add (n m : Nat) (x : SyncFsm) : fsmRun d (n + m) x = fsmRun d m (fsmRun d n x) := by
  induction n generalizing x with
  | zero => rw [Nat.zero_add]; rfl
  | succ n ih => rw [Nat.succ_add]; exact ih _

theorem Reaches.trans {x y z : SyncFsm} (h : Reaches d x y) (h' : Reaches d y z) : Reaches d x z := by
  obtain ⟨n, rfl⟩ := h
  obtain ⟨m, rfl⟩ := h'
  exact ⟨n + m, fsmRun_add n m x⟩

/-- A completion state is left by no transition. -/
theorem fsmRun_toFsm (r : SyncResult) (n : Nat) : fsmRun d n r.toFsm = r.toFsm := by
  have hstay : fsmNext d r.toFsm = r.toFsm := by
    unfold SyncResult.toFsm
    split <;> rfl
  induction n with
  | zero => rfl
  | succ n ih => rw [fsmRun, hstay, ih]

end

section
variable {d : Input} {c k pos rejects : Nat} {h : Word}

/-- The state after the length of header `k` is known, or is known not to exist (the rows of R201 that leave PROBING,
and the one that needs none). -/
def afterLength (c k pos : Nat) (first : Word) (rejects : Nat) : Option Nat → SyncFsm
  | some len => .confirming c (k + 1) (pos + len) (some first) rejects
  | none => .resyncing c rejects

/-- PROBING tries the sizes that `probeFrom` tries, in the same order (R194). -/
theorem probing_reaches (hh : hdrAt d pos = some h) (first : Word) {n size : Nat}
    (hn : n = maxFreeSize d.params h + 1 - size) :
    Reaches d (.probing c k pos size first rejects)
      (afterLength c k pos first rejects (probeFrom d pos h n size)) := by
  induction n generalizing size with
  | zero =>
    have hbound : maxFreeSize d.params h < size := by omega
    exact .single (by simp [fsmNext, probingNext, hh, hbound, probeFrom, afterLength])
  | succ n ih =>
    have hbound : ¬maxFreeSize d.params h < size := by omega
    cases hnext : hdrAt d (pos + size) with
    | none =>
      rw [probeFrom_leaves_buffer hnext]
      exact .single (by simp [fsmNext, probingNext, hh, hbound, hnext, afterLength])
    | some next =>
      by_cases hit : ProbeHit d pos h size
      · rw [probeFrom_hit hit]
        rw [ProbeHit, isCandidate_of_some hnext] at hit
        exact .single (by simp [fsmNext, probingNext, hh, hbound, hnext, hit, afterLength])
      · rw [probeFrom_miss hnext hit]
        rw [ProbeHit, isCandidate_of_some hnext] at hit
        exact .head (by simp [fsmNext, probingNext, hh, hbound, hnext, hit]) (ih (by omega))

section
variable {first : Option Word}

/-- From an accepted header that is not the last, the state machine finds its length (R196, R201). -/
theorem confirming_reaches_afterLength (hh : hdrAt d pos = some h) (hv : valid d.params h = true)
    (hc : compat h (first.getD h) = true) (hk : ¬d.params.pConfirm ≤ k + 1) :
    Reaches d (.confirming c k pos first rejects)
      (afterLength c k pos (first.getD h) rejects (frameLen d pos h)) := by
  cases hf : isFree h with
  | false =>
    exact .single (by simp [fsmNext, confirmingNext, hh, hv, hc, hk, hf, frameLen, afterLength])
  | true =>
    have hlen : frameLen d pos h = probeFrom d pos h (maxFreeSize d.params h + 1 - headerSize) headerSize := by
      simp [frameLen, hf, probe_eq_probeFrom hh]
    rw [hlen]
    exact .head (by simp [fsmNext, confirmingNext, hh, hv, hc, hk, hf]) (probing_reaches hh _ rfl)

/-- Where CONFIRMING ends: FOUND for a confirmed candidate, RESYNCING for a rejected one. -/
def afterConfirm (c rejects : Nat) (ok : Bool) : SyncFsm := if ok then .found c rejects else .resyncing c rejects

/-- The three checks of R197 on the header at `pos`, against the reference header. -/
def HeaderPasses (d : Input) (pos : Nat) (first : Option Word) : Prop :=
  ∃ h, hdrAt d pos = some h ∧ valid d.params h = true ∧ compat h (first.getD h) = true

/-- CONFIRMING a header that is out of the buffer, invalid or incompatible rejects the candidate (R197). -/
theorem confirming_reaches_rejected (more : Nat) (hrej : ¬HeaderPasses d pos first) :
    Reaches d (.confirming c k pos first rejects)
      (afterConfirm c rejects (confirmFrom d more k pos first).ok) := by
  cases hh : hdrAt d pos with
  | none =>
    rw [confirmFrom_outOfBuffer hh]
    exact .single (by simp [fsmNext, confirmingNext, hh, afterConfirm])
  | some h =>
    cases hv : valid d.params h with
    | false =>
      rw [confirmFrom_invalid hh hv]
      exact .single (by simp [fsmNext, confirmingNext, hh, hv, afterConfirm])
    | true =>
      have hc : compat h (first.getD h) = false := Bool.eq_false_iff.2 fun hc => hrej ⟨h, hh, hv, hc⟩
      rw [confirmFrom_incompatible hh hv hc]
      exact .single (by simp [fsmNext, confirmingNext, hh, hv, hc, afterConfirm])

end

/-- CONFIRMING makes the checks of `confirmFrom`, in the same order (R197, R198). -/
theorem confirming_reaches (more k pos : Nat) (first : Option Word) (hk : d.params.pConfirm - 1 = k + more) :
    Reaches d (.confirming c k pos first rejects)
      (afterConfirm c rejects (confirmFrom d more k pos first).ok) := by
  induction more generalizing k pos first with
  | zero =>
    by_cases hacc : HeaderPasses d pos first
    · obtain ⟨h, hh, hv, hc⟩ := hacc
      have hlast : d.params.pConfirm ≤ k + 1 := by omega
      rw [confirmFrom_last hh hv hc]
      exact .single (by simp [fsmNext, confirmingNext, hh, hv, hc, hlast, afterConfirm])
    · exact confirming_reaches_rejected 0 hacc
  | succ more ih =>
    by_cases hacc : HeaderPasses d pos first
    · obtain ⟨h, hh, hv, hc⟩ := hacc
      have hlength := confirming_reaches_afterLength (c := c) (rejects := rejects) hh hv hc (k := k) (by omega)
      cases hl : frameLen d pos h with
      | none =>
        rw [confirmFrom_probeFailed hh hv hc hl]
        rwa [hl] at hlength
      | some len =>
        rw [confirmFrom_next hh hv hc hl]
        rw [hl] at hlength
        exact hlength.trans (ih (k + 1) (pos + len) _ (by omega))
    · exact confirming_reaches_rejected (more + 1) hacc

theorem scanning_reaches_outOfBuffer {o : Nat} (hh : hdrAt d o = none) (n : Nat) :
    Reaches d (.scanning o rejects) (syncFrom d n o rejects).toFsm := by
  rw [syncFrom_outOfBuffer hh]
  exact .single (by simp [fsmNext, scanningNext, hh, SyncResult.toFsm])

/-- SCANNING passes over the offsets that `syncFrom` passes over, and stops where it stops (R199, R201). -/
theorem scanning_reaches (n o : Nat) (hn : d.len ≤ o + n) :
    Reaches d (.scanning o rejects) (syncFrom d n o rejects).toFsm := by
  induction n generalizing o rejects with
  | zero => exact scanning_reaches_outOfBuffer (hdrAt_eq_none.2 (by omega)) 0
  | succ n ih =>
    cases hh : hdrAt d o with
    | none => exact scanning_reaches_outOfBuffer hh (n + 1)
    | some h =>
      have hrest : d.len ≤ o + 1 + n := by omega
      cases hv : valid d.params h with
      | false =>
        rw [syncFrom_no_candidate hh hv]
        exact .head (by simp [fsmNext, scanningNext, hh, hv]) (ih (o + 1) hrest)
      | true =>
        have hcand : isCandidate d o = true := (isCandidate_of_some hh).trans hv
        have hconfirm : Reaches d (.scanning o rejects) (afterConfirm o rejects (confirm d o).ok) :=
          .head (by simp [fsmNext, scanningNext, hh, hv]) (confirming_reaches _ 0 o none (Nat.zero_add _).symm)
        cases hok : (confirm d o).ok with
        | true =>
          rw [syncFrom_found hcand hok]
          rwa [hok] at hconfirm
        | false =>
          rw [syncFrom_rejected hcand hok]
          rw [hok] at hconfirm
          exact hconfirm.trans (.head rfl (ih (o + 1) hrest))

end

end Sys2Proof.Machine

namespace Sys2Proof

open Machine

/-- Settles O47: the two cases of `ScanOutcome`. -/
theorem syncFindsTheFirstConfirmedOffset : Obligations.SyncFindsTheFirstConfirmedOffset := by
  intro d start
  have hout := sync_outcome d start
  generalize sync d start = r at hout
  cases hout with
  | found from_start cand ok passed => exact ⟨fun _ => ⟨from_start, cand, ok, passed, Nat.zero_add _⟩, nofun⟩
  | notFound passed =>
    refine ⟨nofun, fun _ => ⟨rfl, fun o ho hcand => ?_, Nat.zero_add _⟩⟩
    exact (passed o ho).resolve_left (by simp [hcand])

/-- Settles O48: each state's part of the run reaches what the function for it gives, and a completion stays. -/
theorem syncFsmReachesTheResultOfSync : Obligations.SyncFsmReachesTheResultOfSync := by
  intro d start
  obtain ⟨n, hn⟩ : Reaches d (.scanning start 0) (sync d start).toFsm := scanning_reaches _ start (by omega)
  refine ⟨n, fun m hm => ?_⟩
  rw [← Nat.add_sub_cancel' hm, fsmRun_add, hn, fsmRun_toFsm]

/-- Settles O49: the stream's first header is a confirmed candidate, and no offset before it is one. -/
theorem syncFindsAStreamBehindJunk : Obligations.SyncFindsAStreamBehindJunk := by
  intro d start m h hp hm hv hf hrun hjunk
  have hcand : isCandidate d m = true := isCandidate_iff.2 ⟨h, by simpa using hrun 0 hp, hv⟩
  have hstop : ¬PassedOver d m := by simp [PassedOver, hcand, confirm_ok_of_spaced hp hv hf hrun]
  have hout := sync_outcome d start
  generalize sync d start = r at hout
  cases hout with
  | @found c from_start cand ok passed =>
    have hle : c ≤ m := not_lt.1 fun hlt => hstop (passed m hm hlt)
    have hge : m ≤ c := not_lt.1 fun hlt => by simp [hjunk c from_start hlt cand] at ok
    exact ⟨rfl, le_antisymm hle hge⟩
  | notFound passed => exact absurd (passed m hm) hstop

/-- Settles O50: the offset is at most BUF_LEN and the rejected candidates are fewer, so both fit 32 bits. -/
theorem syncCommandReports : Obligations.SyncCommandReports := by
  intro s
  have hout := sync_outcome (inputOf s) s.arg0.toNat
  have hlen : (inputOf s).len < 2 ^ 32 := inputOf_len_lt s
  have hoffset := toNat_ofNat_of_le hout.offset_le hlen
  have hrejects := toNat_ofNat_of_le (hout.rejects_le.trans (Nat.sub_le ..)) hlen
  refine ⟨_, rfl, rfl, rfl, hoffset, hrejects, hrejects.trans_le hout.rejects_le, rfl, fun hstart => ?_⟩
  have hsync : sync (inputOf s) (offsetOperand s) = ⟨false, s.bufLen.toNat, 0⟩ :=
    sync_outOfBuffer (hdrAt_eq_none.2 hstart)
  simp [regValue, hsync]

end Sys2Proof
end

section
/-! SUPPORT. 43_xing.md: the block after the tag, the command that parses it, and the two mutators. -/

namespace Sys2Proof.Machine

/-! ### The gated fields of a block (R90 to R92, R233, R236) -/

section
variable {d : Input} {c : Bool} {p p0 f : Nat} {tag m h : Word}

/-- A gated field is as long as its mask bit says, and only BUF_LEN bounds it (R233). -/
theorem xingField_eq_some (hp : p ≤ d.len) {r : Word × Nat} : xingField d c p = some r ↔
    p + 4 * c.toNat ≤ d.len ∧ (if c then memRead4 d.buf p else 0, p + 4 * c.toNat) = r := by
  cases c with
  | false => simp [xingField, hp]
  | true => simp [xingField, readWord, inBuf]

/-- The gated TOC takes its 100 bytes, of which only the first one's offset is kept (R236). -/
theorem xingToc_eq_some (hp : p ≤ d.len) {r : Nat × Nat} : xingToc d c p = some r ↔
    p + 100 * c.toNat ≤ d.len ∧ (if c then p else 0, p + 100 * c.toNat) = r := by
  cases c with
  | false => simp [xingToc, hp]
  | true =>
    have htoc : xingToc d true p = if inBuf d p 100 then some (p, p + 100) else none := rfl
    simp [htoc, inBuf]

/-- Group X for a block at `p0` with bitmask `m`: each field the mask declares at its offset of R92, the others 0
(R234, R235). -/
def blockRegs (buf : Memory) (tag : Word) (p0 : Nat) (m : Word) : XingRegs where
  info := ⟨true, tag == xingTag, false⟩
  tagOff := BitVec.ofNat 32 p0
  mask := m
  frames := if m.getLsbD 0 then memRead4 buf (p0 + 8) else 0
  bytes := if m.getLsbD 1 then memRead4 buf (byteCountOffset p0 m) else 0
  tocOff := BitVec.ofNat 32 (if m.getLsbD 2 then tocOffset p0 m else 0)
  quality := if m.getLsbD 3 then memRead4 buf (qualityOffset p0 m) else 0

/-- The quality is the last field, so the block ends where it does (R90). -/
theorem qualityOffset_add (p0 : Nat) (m : Word) :
    qualityOffset p0 m + 4 * (m.getLsbD 3).toNat = p0 + blockLength m := by
  simp only [qualityOffset, tocOffset, byteCountOffset, blockLength]
  omega

theorem xingBlock_of_wholeBlock (hw : WholeBlock d p0 m) : xingBlock d tag p0 = some (blockRegs d.buf tag p0 m) := by
  obtain ⟨hm, hlen⟩ := hw
  rw [← qualityOffset_add] at hlen
  have htoc_le : tocOffset p0 m ≤ qualityOffset p0 m := Nat.le_add_right ..
  have hbytes_le : byteCountOffset p0 m ≤ tocOffset p0 m := Nat.le_add_right ..
  have hmask : p0 + 8 ≤ d.len := (readWord_eq_some.1 hm).1
  have hframes : xingField d (m.getLsbD 0) (p0 + 8) = some (_, byteCountOffset p0 m) :=
    (xingField_eq_some hmask).2 ⟨show byteCountOffset p0 m ≤ d.len by omega, rfl⟩
  have hbytes : xingField d (m.getLsbD 1) (byteCountOffset p0 m) = some (_, tocOffset p0 m) :=
    (xingField_eq_some (by omega)).2 ⟨show tocOffset p0 m ≤ d.len by omega, rfl⟩
  have htoc : xingToc d (m.getLsbD 2) (tocOffset p0 m) = some (_, qualityOffset p0 m) :=
    (xingToc_eq_some (by omega)).2 ⟨show qualityOffset p0 m ≤ d.len by omega, rfl⟩
  have hquality : xingField d (m.getLsbD 3) (qualityOffset p0 m) = some (_, _) :=
    (xingField_eq_some (by omega)).2 ⟨hlen, rfl⟩
  simp only [xingBlock, Option.bind_eq_bind, hm, Option.bind_some, hframes, hbytes, htoc, hquality]
  rfl

/-- A block is parsed only when the whole of it lies in the buffer (R230). -/
theorem wholeBlock_of_xingBlock {x : XingRegs} (hx : xingBlock d tag p0 = some x) : ∃ m, WholeBlock d p0 m := by
  simp only [xingBlock, Option.bind_eq_bind, Option.bind_eq_some_iff] at hx
  obtain ⟨m, hm, ⟨fc, p1⟩, h1, ⟨bc, p2⟩, h2, ⟨toc, p3⟩, h3, ⟨q, p4⟩, h4, -⟩ := hx
  obtain ⟨hl1, heq1⟩ := (xingField_eq_some (readWord_eq_some.1 hm).1).1 h1
  cases heq1
  obtain ⟨hl2, heq2⟩ := (xingField_eq_some hl1).1 h2
  cases heq2
  obtain ⟨hl3, heq3⟩ := (xingToc_eq_some hl2).1 h3
  cases heq3
  exact ⟨m, hm, (qualityOffset_add p0 m).symm.trans_le ((xingField_eq_some hl3).1 h4).1⟩

/-! ### The command, one rule per row of R230 -/

theorem parseXing_outOfBuffer (hh : hdrAt d f = none) : parseXing d f = (.zero, .bufferBounds) := by
  simp [parseXing, hh]

theorem parseXing_invalid (hh : hdrAt d f = some h) (hv : valid d.params h = false) :
    parseXing d f = (.zero, .invalidHeader) := by
  simp [parseXing, hh, hv]

theorem parseXing_no_tag (hh : hdrAt d f = some h) (hv : valid d.params h = true)
    (hno : ¬∃ p0 tag, TagAt d f p0 tag) : parseXing d f = (.zero, .none) := by
  cases hr : readWord d (f + dataOffset h) with
  | none => simp [parseXing, hh, hv, hr]
  | some tag =>
    have htag : tag ≠ xingTag ∧ tag ≠ infoTag := not_or.1 fun ht => hno ⟨_, tag, h, hh, hv, rfl, hr, ht⟩
    simp [parseXing, hh, hv, hr, htag]

/-- After a tag only the block decides (R230). -/
theorem parseXing_tag (ht : TagAt d f p0 tag) :
    parseXing d f = (xingBlock d tag p0).elim (.zero, .truncatedMetadata) (·, .none) := by
  obtain ⟨h, hh, hv, rfl, hr, htag⟩ := ht
  have hmatch : tag = xingTag ∨ tag = infoTag := htag
  have hpass : (tag != xingTag && tag != infoTag) = false := by
    simpa [Classical.or_iff_not_imp_left] using hmatch
  cases hb : xingBlock d tag (f + dataOffset h) <;> simp [parseXing, hh, hv, hr, hb, hpass]

theorem parseXing_whole (ht : TagAt d f p0 tag) (hw : WholeBlock d p0 m) :
    parseXing d f = (blockRegs d.buf tag p0 m, .none) := by
  simp [parseXing_tag ht, xingBlock_of_wholeBlock hw]

theorem parseXing_truncated (ht : TagAt d f p0 tag) (hno : ¬∃ m, WholeBlock d p0 m) :
    parseXing d f = (.zero, .truncatedMetadata) := by
  have hb : xingBlock d tag p0 = none :=
    Option.eq_none_iff_forall_ne_some.2 fun _ hx => hno (wholeBlock_of_xingBlock hx)
  simp [parseXing_tag ht, hb]

/-- Without a whole block group X is cleared, whatever the error (R231). -/
theorem parseXing_clears (hno : ¬∃ p0 tag m, TagAt d f p0 tag ∧ WholeBlock d p0 m) : (parseXing d f).1 = .zero := by
  cases hh : hdrAt d f with
  | none => rw [parseXing_outOfBuffer hh]
  | some h =>
    cases hv : valid d.params h with
    | false => rw [parseXing_invalid hh hv]
    | true =>
      by_cases ht : ∃ p0 tag, TagAt d f p0 tag
      · obtain ⟨p0, tag, ht⟩ := ht
        rw [parseXing_truncated ht fun ⟨m, hw⟩ => hno ⟨p0, tag, m, ht, hw⟩]
      · rw [parseXing_no_tag hh hv ht]

/-- XING completes with group X and the error that `parseXing` gives. -/
theorem exec_xing {s : State} {r : XingRegs × ErrCode} (hr : parseXing (inputOf s) s.arg0.toNat = r) :
    exec .xing s = .next (complete r.2 { s with xing := r.1 }) := by
  subst hr
  rfl

/-- IS_VBR is the tag (R234). -/
theorem toWord_blockRegs_info (buf : Memory) (tag : Word) (p0 : Nat) (m : Word) :
    (blockRegs buf tag p0 m).info.toWord = if tag = xingTag then 0x3#32 else 0x1#32 := by
  by_cases htag : tag = xingTag
  · simp [blockRegs, htag, XingInfo.toWord]
  · have hinfo : (tag == xingTag) = false := beq_false_of_ne htag
    simp [blockRegs, htag, hinfo, XingInfo.toWord]

/-- Every register of group X reads 0 when it is cleared (R231). -/
theorem regValue_xing_cleared (s : State) {r : Reg} (hr : r ≠ .status) (hw : writes .xing r = true) :
    regValue { s with xing := .zero } r = 0 := by
  cases r <;> simp [writes] at hr hw <;> simp [regValue, XingRegs.zero]

end

/-! ### SET_FC and SET_BC (R240 to R242) -/

/-- MODIFIED is bit 2 of XING_INFO (R40). -/
theorem XingInfo.toWord_modified (i : XingInfo) : { i with modified := true }.toWord = i.toWord ||| 0x4#32 := by
  obtain ⟨present, isVbr, modified⟩ := i
  revert present isVbr modified
  decide

section
variable {v : Word} {x : XingRegs}

theorem setFrames_same (h : v = x.frames) : setFrames v x = x := if_pos h

theorem setFrames_new (h : v ≠ x.frames) :
    setFrames v x = { x with frames := v, info := { x.info with modified := true } } := if_neg h

theorem setBytes_same (h : v = x.bytes) : setBytes v x = x := if_pos h

theorem setBytes_new (h : v ≠ x.bytes) :
    setBytes v x = { x with bytes := v, info := { x.info with modified := true } } := if_neg h

@[simp] theorem setFrames_frames (v : Word) (x : XingRegs) : (setFrames v x).frames = v := by
  by_cases h : v = x.frames
  · rw [setFrames_same h, h]
  · rw [setFrames_new h]

@[simp] theorem setBytes_bytes (v : Word) (x : XingRegs) : (setBytes v x).bytes = v := by
  by_cases h : v = x.bytes
  · rw [setBytes_same h, h]
  · rw [setBytes_new h]

end

section
variable {s : State}

theorem exec_setFc_absent (h : s.xing.info.present = false) : exec .setFc s = .next (complete .unsupported s) := by
  simp [exec_setFc, h]

theorem exec_setFc_present (h : s.xing.info.present = true) :
    exec .setFc s = .next (complete .none { s with xing := setFrames s.arg1 s.xing }) := by
  simp [exec_setFc, h]

theorem exec_setBc_absent (h : s.xing.info.present = false) : exec .setBc s = .next (complete .unsupported s) := by
  simp [exec_setBc, h]

theorem exec_setBc_present (h : s.xing.info.present = true) :
    exec .setBc s = .next (complete .none { s with xing := setBytes s.arg1 s.xing }) := by
  simp [exec_setBc, h]

end

/-! ### What only XING and a reset change (R242) -/

/-- From `x` to `x'` nothing of the Xing data but the two counts changed, and MODIFIED did not clear. -/
structure KeepsXingData (x x' : XingRegs) : Prop where
  present : x'.info.present = x.info.present
  isVbr : x'.info.isVbr = x.info.isVbr
  tagOff : x'.tagOff = x.tagOff
  mask : x'.mask = x.mask
  tocOff : x'.tocOff = x.tocOff
  quality : x'.quality = x.quality
  modified : x.info.modified = true → x'.info.modified = true

theorem KeepsXingData.refl (x : XingRegs) : KeepsXingData x x := ⟨rfl, rfl, rfl, rfl, rfl, rfl, id⟩

theorem keepsXingData_setFrames (v : Word) (x : XingRegs) : KeepsXingData x (setFrames v x) := by
  by_cases h : v = x.frames
  · rw [setFrames_same h]
    exact .refl x
  · rw [setFrames_new h]
    exact ⟨rfl, rfl, rfl, rfl, rfl, rfl, fun _ => rfl⟩

theorem keepsXingData_setBytes (v : Word) (x : XingRegs) : KeepsXingData x (setBytes v x) := by
  by_cases h : v = x.bytes
  · rw [setBytes_same h]
    exact .refl x
  · rw [setBytes_new h]
    exact ⟨rfl, rfl, rfl, rfl, rfl, rfl, fun _ => rfl⟩

section
variable {s t : State}

theorem GroupWrite.keepsXingData {i : Instr} (hw : GroupWrite s i t) (hi : i ≠ .xing) :
    KeepsXingData s.xing t.xing := by
  cases hw with
  | xing => exact absurd rfl hi
  | setFc => exact keepsXingData_setFrames ..
  | setBc => exact keepsXingData_setBytes ..
  | _ => exact .refl _

theorem engineTurn_keepsXingData (ht : engineTurn s = .next t) (hx : s.pending ≠ some (encode .xing)) :
    KeepsXingData s.xing t.xing := by
  obtain ⟨-, rfl⟩ | ⟨w, i, hp, hd, he⟩ | ⟨w, e, -, -, rfl⟩ := engineTurn_cases ht
  · exact .refl _
  · obtain ⟨e, u, -, hw, rfl⟩ := exec_groupWrite he
    refine hw.keepsXingData ?_
    rintro rfl
    exact hx (decodeWord_eq_ok_iff.1 hd ▸ hp)
  · exact .refl _

/-- No step of the host writes group X (R48). -/
theorem hostStep_xing {m : HostStep} (ht : hostStep m s = .next t) : t.xing = s.xing := by
  obtain ⟨o, -, -, -, rfl⟩ | ⟨o, v, -, -, -, rfl⟩ | ⟨o, b, -, -, -, rfl⟩ := hostStep_cases ht
  · obtain ⟨_, _, h⟩ := readReg_frame o s
    rw [h]
  · obtain ⟨_, _, _, _, _, _, h⟩ := writeReg_frame o v s
    rw [h]
  · rfl

theorem step_keepsXingData (ht : step s = .next t) (hr : nextTurn s ≠ .reset)
    (hx : ¬(nextTurn s = .engine ∧ s.pending = some (encode .xing))) : KeepsXingData s.xing t.xing := by
  obtain ⟨hn, he⟩ | ⟨m, -, hh⟩ | ⟨hn, -⟩ := step_cases ht
  · exact engineTurn_keepsXingData (s := { s with agenda := s.agenda.tail }) he fun hp => hx ⟨hn, hp⟩
  · exact hostStep_xing hh ▸ .refl _
  · exact absurd hn hr

end

end Sys2Proof.Machine

namespace Sys2Proof

open Machine

/-- Settles O52: the group X of a whole block, whose offsets lie below BUF_LEN and so fit their registers. -/
theorem xingParsesAWholeBlock : Obligations.XingParsesAWholeBlock := by
  intro s p0 tag m ht hw
  have hend : qualityOffset p0 m + 4 * (m.getLsbD 3).toNat ≤ (inputOf s).len := qualityOffset_add p0 m ▸ hw.2
  have hlen : (inputOf s).len < 2 ^ 32 := inputOf_len_lt s
  have htoc : tocOffset p0 m ≤ (inputOf s).len :=
    (Nat.le_add_right ..).trans ((Nat.le_add_right ..).trans hend)
  have hp0 : p0 ≤ (inputOf s).len := (Nat.le_add_right ..).trans hw.2
  refine ⟨_, exec_xing (parseXing_whole ht hw), rfl, rfl, rfl, toWord_blockRegs_info ..,
    toNat_ofNat_of_le hp0 hlen, rfl, rfl, rfl, toNat_ofNat_of_le ?_ hlen, rfl⟩
  split
  · exact htoc
  · exact Nat.zero_le _

/-- Settles O53: one equation of `parseXing` for each error, and group X cleared in all of them. -/
theorem xingOtherwiseClearsGroupX : Obligations.XingOtherwiseClearsGroupX := by
  intro s d f hno
  refine ⟨_, exec_xing rfl, fun r hr hw => ?_, fun hh => ?_, fun h hh hv => ?_, fun h hh hv ht => ?_,
    fun p0 tag ht => ?_⟩
  · rw [regValue_complete _ _ hr, parseXing_clears hno, regValue_xing_cleared s hr hw]
  · exact congrArg Prod.snd (parseXing_outOfBuffer hh)
  · exact congrArg Prod.snd (parseXing_invalid hh hv)
  · exact congrArg Prod.snd (parseXing_no_tag hh hv ht)
  · exact congrArg Prod.snd (parseXing_truncated ht fun ⟨m, hw⟩ => hno ⟨p0, tag, m, ht, hw⟩)

/-- Settles O56: the mutators keep all but the two counts, every other command but XING and the host all of group X. -/
theorem xingDataChangesOnlyByXingOrReset : Obligations.XingDataChangesOnlyByXingOrReset := by
  intro s t ht hr hx
  obtain ⟨hpresent, hvbr, htag, hmask, htoc, hquality, hmodified⟩ := step_keepsXingData ht hr hx
  exact ⟨hpresent, hvbr, htag, hmask, htoc, hquality, hmodified⟩

/-- Settles O54: the two cases of `setFrames`, with a block held. -/
theorem setFrameCount : Obligations.SetFrameCount := by
  refine fun s => ⟨fun hp => ⟨_, exec_setFc_absent hp, rfl, fun r hr => regValue_complete _ s hr⟩, fun hp => ?_⟩
  have hx := exec_setFc_present hp
  refine ⟨_, hx, rfl, rfl, rfl, setFrames_frames .., fun h => ?_, fun h => ?_, fun r hs hf hi => ?_⟩
  · exact congrArg (·.info.toWord) (setFrames_same h)
  · exact (congrArg (·.info.toWord) (setFrames_new h)).trans (XingInfo.toWord_modified _)
  · exact exec_regValue hx (by cases r <;> simp [writes] at hs hf hi ⊢)

/-- Settles O55: the two cases of `setBytes`, with a block held. -/
theorem setByteCount : Obligations.SetByteCount := by
  refine fun s => ⟨fun hp => ⟨_, exec_setBc_absent hp, rfl, fun r hr => regValue_complete _ s hr⟩, fun hp => ?_⟩
  have hx := exec_setBc_present hp
  refine ⟨_, hx, rfl, rfl, rfl, setBytes_bytes .., fun h => ?_, fun h => ?_, fun r hs hf hi => ?_⟩
  · exact congrArg (·.info.toWord) (setBytes_same h)
  · exact (congrArg (·.info.toWord) (setBytes_new h)).trans (XingInfo.toWord_modified _)
  · exact exec_regValue hx (by cases r <;> simp [writes] at hs hf hi ⊢)

end Sys2Proof
end

section
/-! SUPPORT. 60_exceptions.md: the error codes a completion writes (R263) and the interrupt line (R270). -/

namespace Sys2Proof.Machine

section
variable {s t : State} {v : Word}

/-- A completion raises DONE and leaves CTRL, so IE alone decides irq (R122, R270). -/
theorem exec_irq {i : Instr} (h : exec i s = .next t) : irq t = s.ctrl.ie := by
  obtain ⟨_, _, _, _, _, _, _, rfl⟩ := exec_frame h
  exact irq_complete ..

theorem irq_clear_done (h : v.getLsbD 1 = true) (s : State) : irq (writeRegIdle .status v s) = false := by
  simp [writeRegIdle, irq, h]

theorem irq_write_ctrl (v : Word) (s : State) :
    irq (writeRegIdle .ctrl v s) = (s.status.done && v.getLsbD 0) := rfl

/-- An idle write of a register that goes on does so to the state its rule gives. -/
theorem eq_of_step_write_idle {rest : List Turn} (r : Reg) (hb : busy s = false)
    (ha : s.agenda = .host (.write r.offset 32 v) :: rest) (ht : step s = .next t) :
    t = writeRegIdle r v { s with agenda := rest } :=
  Host.Outcome.next.inj (ht.symm.trans (step_write_idle r hb ha))

end

end Sys2Proof.Machine

namespace Sys2Proof

open Machine

/-- Settles O13: a command completes with a code of its row of R263, an illegal word with code 6. -/
theorem commandsWriteOnlyTheirErrorCodes : Obligations.CommandsWriteOnlyTheirErrorCodes := by
  refine ⟨fun i s t h => ?_, fun s => rfl⟩
  obtain ⟨e, u, he, -, rfl⟩ := exec_groupWrite h
  exact he

/-- Settles O28: of the two bits irq is made of, a completion sets DONE, the W1C write and an issue clear it, and a
write of CTRL sets IE to bit 0 of the word. -/
theorem irqFollowsCompletionAndClears : Obligations.IrqFollowsCompletionAndClears := by
  refine ⟨fun i s t h => exec_irq h, fun s t o v rest hb ha ht => ⟨?_, ?_, ?_, ?_⟩⟩
  · rintro rfl hv
    rw [eq_of_step_write_idle .status hb ha ht, irq_clear_done hv]
  · rintro rfl
    rw [eq_of_step_write_idle .cmd hb ha ht]
    exact irq_issue v _
  · rintro rfl hv
    rw [eq_of_step_write_idle .ctrl hb ha ht, irq_write_ctrl, hv, Bool.and_false]
  · rintro rfl hv
    rw [eq_of_step_write_idle .ctrl hb ha ht, irq_write_ctrl, hv, Bool.and_true]

end Sys2Proof
end

section
/-! SUPPORT. 70_reset_and_hazards.md: the state a reset leaves (R290, R291) and what each command makes of it
(R293). -/

namespace Sys2Proof.Machine

/-- With no command pending the engine's step is not enabled (R122). -/
theorem engineTurn_of_none {s : State} (hp : s.pending = none) : engineTurn s = .next s := by
  simp [engineTurn, fetchCommand, hp]

/-! ### The state after a reset -/

theorem regValue_resetEvent (s : State) (r : Reg) : regValue (resetEvent s) r = 0 := by
  cases r with
  | cmd => rfl
  | status | ctrl | arg0 | arg1 | bufLen => simp [regValue, statusWord]
  | hdrRaw | hdrInfo | bitrate | srate | spf | frameSize | sideInfo | dataOffset => simp [regValue, HdrRegs.zero]
  | compat | confRes | syncOffset | syncRejects | probeSize => simp [regValue, SyncRegs.zero]
  | xingInfo | xingTagOff | xingMask | xingFrames | xingBytes | xingTocOff | xingQuality =>
    simp [regValue, XingRegs.zero]

@[simp] theorem irq_resetEvent (s : State) : irq (resetEvent s) = false := by simp [irq, Status.zero]

/-- BUF_LEN is 0, so no header lies inside the buffer, whatever bytes it holds. -/
theorem hdrAt_resetEvent (s : State) (o : Nat) : hdrAt (inputOf (resetEvent s)) o = none :=
  hdrAt_eq_none.2 (by simp [inputOf])

/-- The zero word fails the sync check, with either width (R140). -/
theorem valid_zero (p : Params) : valid p 0 = false := by simp [valid, syncOk, syncField]

/-! ### CONFIRM and SYNC where no header is in bounds -/

theorem confirm_outOfBuffer {d : Input} {c : Nat} (hh : hdrAt d c = none) : confirm d c = ⟨false, 0, .outOfBuffer⟩ :=
  confirmFrom_outOfBuffer hh

/-- REASON stands in bits 11:8 of CONF_RES (R36). -/
theorem ConfRes.toWord_outOfBuffer : ConfRes.toWord ⟨false, 0, .outOfBuffer⟩ = 0x00000100#32 := by decide

section
variable {s : State}

theorem exec_confirm_outOfBuffer (hh : hdrAt (inputOf s) s.arg0.toNat = none) :
    exec .confirm s = .next (complete .syncNotFound { s with confRes := ⟨false, 0, .outOfBuffer⟩ }) := by
  have hc : confirm (inputOf s) (offsetOperand s) = ⟨false, 0, .outOfBuffer⟩ := confirm_outOfBuffer hh
  simp [exec, execConfirm, hc, confResOf]

theorem exec_sync_outOfBuffer (hh : hdrAt (inputOf s) s.arg0.toNat = none) :
    exec .sync s = .next (complete .syncNotFound { s with sync := ⟨s.bufLen, 0⟩ }) := by
  have hr : sync (inputOf s) (offsetOperand s) = ⟨false, s.bufLen.toNat, 0⟩ := sync_outOfBuffer hh
  simp [exec, execSync, hr]

end

end Sys2Proof.Machine

namespace Sys2Proof

open Machine

/-- Settles O29: the step is `resetEvent`, which leaves no command for the engine to complete. -/
theorem resetClearsEveryRegister : Obligations.ResetClearsEveryRegister := fun _ _ ha =>
  ⟨_, step_cons ha, regValue_resetEvent _, rfl, rfl, irq_resetEvent _, engineTurn_of_none rfl, rfl, rfl⟩

/-- Settles O30: after a reset no header is in bounds, PRESENT is 0 and the operands are the invalid zero word. -/
theorem commandsAfterReset : Obligations.CommandsAfterReset := by
  intro s z
  have hnone : hdrAt (inputOf z) z.arg0.toNat = none := hdrAt_resetEvent s _
  have hinvalid : valid z.params z.arg0 = false := valid_zero _
  have habsent : z.xing.info.present = false := rfl
  refine ⟨?readers, ⟨_, exec_confirm_outOfBuffer hnone, rfl, ConfRes.toWord_outOfBuffer⟩,
    ⟨_, exec_sync_outOfBuffer hnone, rfl, rfl⟩, ?setters, ?headers⟩
  case readers =>
    rintro i (rfl | rfl | rfl)
    · exact ⟨_, exec_decodeMem_outside (hdrAt_eq_none.1 hnone), rfl⟩
    · exact ⟨_, exec_probe (probeCommand_outOfBuffer hnone), rfl⟩
    · exact ⟨_, exec_xing (parseXing_outOfBuffer hnone), rfl⟩
  case setters =>
    rintro i (rfl | rfl)
    · exact ⟨_, exec_setFc_absent habsent, rfl⟩
    · exact ⟨_, exec_setBc_absent habsent, rfl⟩
  case headers =>
    rintro i (rfl | rfl)
    · exact ⟨_, exec_decode z, by simp [decodeHeader, headerErr, hinvalid]⟩
    · obtain ⟨t, ht, -, -, -, -, -, herr⟩ := compareReportsCompatibility z
      exact ⟨t, ht, by simp [herr, hinvalid]⟩

end Sys2Proof
end
